-- ==== Sys2Proof/Word.lean ====
section
/-! DEFINITION. The word types of the IRPT's host port (20_memory.md R42). -/

namespace Sys2Proof

/-- One byte lane of the host port. -/
abbrev Byte := BitVec 8

/-- One word of the host port; a duration (unsigned microseconds, 00_scope.md R3, R4) has the same width. -/
abbrev Word := BitVec 32

end Sys2Proof
end

