-- ==== Sys2Proof/Syntax.lean ====
section
/-! DEFINITION. The instructions of the IRPT: the four rows of spec/opcode_table.json (30_encoding.md R60, R64). -/

namespace Sys2Proof

/-- One constructor per row of the opcode table. Operands come from fixed registers (30_encoding.md R68); only
DECODE carries mode bits in its word. -/
inductive Instr where
  /-- NOP (40_command.md R75). -/
  | nop
  /-- MATCH (43_matcher.md R112). -/
  | matchTol
  /-- ENCODE (41_encoder.md R80). -/
  | encode
  /-- DECODE with the STRICT and GAPREQ bits of its word (42_decoder.md R90, 30_encoding.md R62, R63). -/
  | decode (strict gapreq : Bool)
  deriving DecidableEq, Repr

end Sys2Proof
end

