-- ==== Sys2Proof/WellFormed.lean ====
section
/-! DEFINITION. Which command words are legal (30_encoding.md R64), check by check.
An `Instr` has no operand that could be ill formed: its seven terms are the seven legal words, so the checks are on the word. -/

namespace Sys2Proof

/-- Bits 3:0 name one of the four operations. -/
def opKnown (w : Word) : Bool := decide ((w.extractLsb' 0 4).toNat ≤ 3)

/-- Bits 7:4 are 0. -/
def lowReservedClear (w : Word) : Bool := w.extractLsb' 4 4 == 0#4

/-- Bits 31:10 are 0. -/
def highReservedClear (w : Word) : Bool := w.extractLsb' 10 22 == 0#22

/-- STRICT and GAPREQ are 0 unless OP is DECODE. -/
def modeBitsAllowed (w : Word) : Bool := w.extractLsb' 0 4 == 3#4 || w.extractLsb' 8 2 == 0#2

/-- `legal(w)` of 30_encoding.md R64. -/
def legal (w : Word) : Bool :=
  opKnown w && lowReservedClear w && highReservedClear w && modeBitsAllowed w

end Sys2Proof
end

