-- ==== Sys2Proof/Decode.lean ====
section
/-! DEFINITION. The decoder of command words (30_encoding.md R60 to R67), total and rejecting by name, and the encoder.
A command is one 32-bit word in little-endian byte lanes (20_memory.md R42). -/

namespace Sys2Proof

/-- Why a word is illegal (30_encoding.md R65), or why bytes hold no word. -/
inductive DecodeError where
  /-- fewer than the four bytes of a word -/
  | missingBytes
  /-- OP is 0x4 to 0xF -/
  | reservedOp (op : BitVec 4)
  /-- a bit of 7:4 or 31:10 is set -/
  | reservedBitSet
  /-- STRICT or GAPREQ is set on an operation other than DECODE -/
  | modeBitOnOtherOp
  deriving DecidableEq, Repr

/-- The operation in bits 3:0 (30_encoding.md R60). -/
def opField (w : Word) : BitVec 4 := w.extractLsb' 0 4

/-- STRICT, bit 8 (30_encoding.md R62). -/
def strictBit (w : Word) : Bool := w.getLsbD 8

/-- GAPREQ, bit 9 (30_encoding.md R63). -/
def gapreqBit (w : Word) : Bool := w.getLsbD 9

/-- A command without mode bits: STRICT and GAPREQ must be 0 (30_encoding.md R60). -/
def plainCommand (w : Word) (i : Instr) : Except DecodeError Instr :=
  if strictBit w || gapreqBit w then .error .modeBitOnOtherOp else .ok i

/-- The command a word stands for (30_encoding.md R64), or the name of the reason why it is illegal (R65). -/
def decodeWord (w : Word) : Except DecodeError Instr :=
  if w.extractLsb' 4 4 ≠ 0#4 ∨ w.extractLsb' 10 22 ≠ 0#22 then .error .reservedBitSet
  else
    match (opField w).toNat with
    | 0 => plainCommand w .nop
    | 1 => plainCommand w .matchTol
    | 2 => plainCommand w .encode
    | 3 => .ok (.decode (strictBit w) (gapreqBit w))
    | _ => .error (.reservedOp (opField w))

/-- Byte lane k of a word carries bits 8k+7:8k (20_memory.md R42). -/
def laneOf (w : Word) (k : Nat) : Byte := w.extractLsb' (8 * k) 8

/-- The word whose byte lanes 0 to 3 are given (20_memory.md R42). -/
def wordOfLanes (b0 b1 b2 b3 : Byte) : Word := b3 ++ b2 ++ b1 ++ b0

/-- The decoder over bytes: one word, and the bytes after it. -/
def decodeBytes : List Byte → Except DecodeError (Instr × List Byte)
  | b0 :: b1 :: b2 :: b3 :: rest =>
    match decodeWord (wordOfLanes b0 b1 b2 b3) with
    | .ok i => .ok (i, rest)
    | .error e => .error e
  | _ => .error .missingBytes

/-- The word of an instruction, from the opcode table's match column and mode bits (30_encoding.md R64). -/
def encodeWord : Instr → Word
  | .nop => 0x00000000#32
  | .matchTol => 0x00000001#32
  | .encode => 0x00000002#32
  | .decode strict gapreq =>
    0x00000003#32 ||| (if strict then 0x00000100#32 else 0#32) ||| (if gapreq then 0x00000200#32 else 0#32)

/-- The bytes of an instruction's word, lane 0 first (20_memory.md R42). -/
def encodeBytes (i : Instr) : List Byte :=
  [laneOf (encodeWord i) 0, laneOf (encodeWord i) 1, laneOf (encodeWord i) 2, laneOf (encodeWord i) 3]

/-- The word of an instruction given as the table numbers it: the low `nbits` bits of `w`, every bit above them 0. -/
def tableWord (nbits w : Nat) : Word := BitVec.ofNat 32 (w % 2 ^ nbits)

/-- The instruction the decoder reads from the bytes of a table word. -/
def decodeTableWord (nbits w : Nat) : Option Instr :=
  let t := tableWord nbits w
  match decodeBytes [laneOf t 0, laneOf t 1, laneOf t 2, laneOf t 3] with
  | .ok (i, _) => some i
  | .error _ => none

end Sys2Proof
end

