-- ==== Sys2Proof/Config.lean ====
section
/-! DEFINITION. The OPEN parameters of 00_scope.md R3 and the free value of 20_memory.md R53.
Every constant without a body is opaque: nothing in Lean can evaluate it, so a proof holds for every value. -/

namespace Sys2Proof.Config

/-- BUF_DEPTH counted from its least legal value. -/
opaque bufDepthExtra : Fin 65405

/-- `BUF_DEPTH`, the number of capture-buffer entries, 132 to 65536 (00_scope.md R3, D23). -/
def bufDepth : Nat := bufDepthExtra.val + 132

/-- `IRPT_BASE` in units of 4 bytes. -/
opaque irptBaseWords : Nat

/-- `IRPT_BASE`, the base address of the window, a multiple of 4 (20_memory.md R41, D38). -/
def irptBase : Nat := 4 * irptBaseWords

/-- `TOL_PCT_RESET`, the reset value of TOL_PCT (D5). -/
opaque tolPctReset : BitVec 8

/-- `TOL_ABS_RESET`, the reset value of TOL_ABS (D5). -/
opaque tolAbsReset : Word

/-- The level of `ir_tx` while the carrier is off. The spec gives no polarity (D27, N13), so the level has no body. DESIGN
CHOICE (log entry 19): it is one level, the same whenever the carrier is off. -/
opaque carrierOffLevel : Bool

/-- `CARRIER_IMPL`: the level of `ir_tx` at an instant of a mark (41_encoder.md R84, D27). The arguments are the carrier
frequency (kHz), the duty cycle (percent), the number of segments begun since reset and the instant within the present
segment. The spec gives no waveform, phase, polarity or period rounding, so the function has no body. DESIGN CHOICE (log
entry 19): the level depends on these four arguments alone; the phase at the start of each mark is left to the function. -/
opaque carrierImpl : BitVec 16 → BitVec 8 → Nat → Nat → Bool

/-- `TICK_ACCURACY` (00_scope.md R3, 60_exceptions.md R132, D28): whether a segment of the given nominal duration (µs) may take
the given elapsed time. The spec gives the parameter no form and no unit. DESIGN CHOICE (log entry 20): it is a relation
between one segment's nominal duration and its elapsed time, without a body, so no bound, symmetry or unit is fixed. -/
opaque tickAccuracy : Nat → Nat → Bool

/-- An elapsed time that the parameter `TICK_ACCURACY` admits for a segment of the given nominal duration. No step of the
model uses time; a claim about wall-clock time takes this as a premise. Its form is the model's DESIGN CHOICE (log entry 20). -/
def withinTickAccuracy (nominal elapsed : Nat) : Prop := tickAccuracy nominal elapsed = true

/-- The free draws of 20_memory.md R53: the value that a read of an entry not written since reset gives, by the
number of the draw. -/
opaque freeEntry : Nat → Word

end Sys2Proof.Config
end

