-- ==== Sys2Proof/Machine/State.lean ====
section
/-! DEFINITION. The state of the IRPT (10_state.md R10), the reasons a step can stop, and the state after reset (10_state.md R38). -/

namespace Sys2Proof.Machine

/-- The level of a segment on `ir_tx` (00_scope.md glossary). -/
inductive Level where
  /-- carrier on -/
  | mark
  /-- carrier off -/
  | space
  deriving DecidableEq, Repr

/-- One element of the emitted sequence: a level and a duration in microseconds (10_state.md R33). -/
structure Segment where
  level : Level
  dur : Word
  deriving DecidableEq, Repr

/-- The error codes of 60_exceptions.md R120. Codes 7 to 15 are reserved and never written, so they are no values here. -/
inductive ErrCode where
  | none
  | shortBuffer
  | headerMismatch
  | bitMismatch
  | footerMismatch
  | strictLengthMismatch
  | configError
  deriving DecidableEq, Repr

/-- The used bits of STATUS (10_state.md R12 to R17). -/
structure Status where
  /-- BUSY, bit 0 -/
  busy : Bool
  /-- DONE, bit 1 -/
  doneFlag : Bool
  /-- SUCCESS, bit 2 -/
  success : Bool
  /-- ERR, bits 7:4 -/
  err : ErrCode
  /-- CMDERR, bit 8 -/
  cmdErr : Bool
  /-- WERR, bit 9 -/
  wErr : Bool
  deriving DecidableEq, Repr

/-- The RW registers that 20_memory.md R47 freezes while a command runs: tolerances, descriptor and call arguments
(10_state.md R19 to R29, R31). Each field holds exactly the used bits. -/
structure Operands where
  /-- TOL_PCT, 0x00C -/
  tolPct : BitVec 8
  /-- TOL_ABS, 0x010 -/
  tolAbs : Word
  /-- HDR_MARK, 0x020 -/
  hdrMark : Word
  /-- HDR_SPACE, 0x024 -/
  hdrSpace : Word
  /-- BIT_MARK, 0x028 -/
  bitMark : Word
  /-- ONE_SPACE, 0x02C -/
  oneSpace : Word
  /-- ZERO_SPACE, 0x030 -/
  zeroSpace : Word
  /-- FTR_MARK, 0x034 -/
  ftrMark : Word
  /-- MIN_GAP, 0x038 -/
  minGap : Word
  /-- CARRIER, 0x03C: KHZ 15:0, DUTY_PCT 23:16 -/
  carrier : BitVec 24
  /-- DESC_NBITS, 0x040 -/
  descNbits : BitVec 8
  /-- REPEAT, 0x044 -/
  repeatCount : BitVec 16
  /-- PROTO_TAG, 0x048 -/
  protoTag : BitVec 16
  /-- ARG_NBITS, 0x050 -/
  argNbits : BitVec 8
  /-- OFFSET, 0x054 -/
  offset : BitVec 16
  /-- BUF_LEN, 0x058 -/
  bufLen : BitVec 17
  /-- PAYLOAD_LO, 0x05C -/
  payloadLo : Word
  /-- PAYLOAD_HI, 0x060 -/
  payloadHi : Word
  /-- MEAS, 0x064 -/
  meas : Word
  /-- NOM, 0x068 -/
  nom : Word
  deriving DecidableEq, Repr

/-- The result registers of DECODE (10_state.md R32). -/
structure Results where
  /-- RES_VALUE_LO, 0x080 -/
  valueLo : Word
  /-- RES_VALUE_HI, 0x084 -/
  valueHi : Word
  /-- RES_NBITS, 0x088 -/
  nbits : BitVec 8
  /-- RES_TAG, 0x08C -/
  tag : BitVec 16
  /-- RES_CONSUMED, 0x090 -/
  consumed : BitVec 8
  deriving DecidableEq, Repr

/-- The sequencer state SEQ (10_state.md R34). -/
inductive Sequencer where
  | idle
  | runMatch
  | runEncode
  | runDecode (strict gapreq : Bool)
  deriving DecidableEq, Repr

/-- One host access on the port: its width in bytes and its byte offset from IRPT_BASE (20_memory.md R41, R43). -/
inductive Access where
  | read (width off : Nat)
  | write (width off : Nat) (data : Word)
  deriving DecidableEq, Repr

/-- One external event: a host step, a turn for the core (20_memory.md R49), or the reset step (70_reset_and_hazards.md R140). -/
inductive Event where
  | host (a : Access)
  | core
  | reset
  deriving DecidableEq, Repr

/-- BUF as bytes by offset from IRPT_BASE, in rising order; an unlisted byte has not been written since reset. -/
abbrev Memory := List Host.Cell

/-- Why the machine stops with a fault. -/
inductive Fault where
  /-- `raise BusError(addr)`: a host access of the wrong width, misaligned, or to an offset of the window that the
  register map does not name (20_memory.md R43, R44; 60_exceptions.md R125). Raised by the host port. Safe: the block
  changes no state and the spec takes the access as a fault of the host program that is never cleared. -/
  | busError (addr : Nat)
  deriving DecidableEq, Repr

/-- Why a step has no meaning. -/
inductive Refusal where
  /-- An instruction without a meaning yet, by its mnemonic. Raised by no arm of this model. Safe. -/
  | notModelled (mnemonic : String)
  /-- An access outside the window is not addressed to the IRPT; what the platform does with it is outside the spec
  (20_memory.md R44). Raised by the host port. Safe: the model stops where the platform goes on. -/
  | notAddressed (addr : Nat)
  deriving DecidableEq, Repr

/-- The state of the machine: all of 10_state.md R10, and the model's own fields `inputs`, `reads` and `draws`. -/
structure State where
  /-- STATUS (R12 to R17) -/
  status : Status
  /-- INTEN.DONE_IE (R18) -/
  doneIe : Bool
  /-- the operand registers (R19 to R29, R31) -/
  regs : Operands
  /-- the capture buffer BUF (R30) -/
  buf : Memory
  /-- RES_* (R32) -/
  res : Results
  /-- TX_SEGS (R33) -/
  txSegs : Word
  /-- SEQ (R34) -/
  seq : Sequencer
  /-- TXLOG, oldest first (R33) -/
  txlog : List Segment
  /-- the external events still to come, in order (log entry 3) -/
  inputs : List Event
  /-- the data that host reads have returned, oldest first (log entry 4) -/
  reads : List Word
  /-- the number of the next free draw (log entry 5) -/
  draws : Nat
  deriving DecidableEq, Repr

/-- STATUS at reset: 0x00000000 (10_state.md R38). -/
def Status.reset : Status :=
  { busy := false, doneFlag := false, success := false, err := .none, cmdErr := false, wErr := false }

/-- The operand registers at reset (10_state.md R38): 0, and the tolerance parameters. -/
def Operands.reset : Operands :=
  { tolPct := Config.tolPctReset, tolAbs := Config.tolAbsReset
    hdrMark := 0, hdrSpace := 0, bitMark := 0, oneSpace := 0, zeroSpace := 0, ftrMark := 0, minGap := 0
    carrier := 0, descNbits := 0, repeatCount := 0, protoTag := 0
    argNbits := 0, offset := 0, bufLen := 0, payloadLo := 0, payloadHi := 0, meas := 0, nom := 0 }

/-- All five result registers 0: at reset (10_state.md R38) and after a failed DECODE (42_decoder.md R100). -/
def Results.zero : Results := { valueLo := 0, valueHi := 0, nbits := 0, tag := 0, consumed := 0 }

/-- The machine right after reset (10_state.md R38). -/
def State.reset : State :=
  { status := Status.reset, doneIe := false, regs := Operands.reset, buf := [], res := Results.zero
    txSegs := 0, seq := .idle, txlog := [], inputs := [], reads := [], draws := 0 }

end Sys2Proof.Machine
end

