-- ==== Sys2Proof/Machine/Ops.lean ====
section
/-! DEFINITION. The shared operations over BUF's bytes, the refusal of a host access, and reset. The IRPT takes no traps
(60_exceptions.md R129, R130): no event saves state or redirects control, so there is no exception entry and no return;
`busError` is the one response that is no ordinary step. -/

namespace Sys2Proof.Machine

/-- What a byte of BUF that is not listed reads as: nothing, it has not been written since reset (10_state.md R30). -/
def unlisted : Option Byte := none

/-- The one canonical form of BUF's bytes: offsets strictly rising, no entry equal to what an unlisted byte reads as. -/
abbrev Memory.wf (m : Memory) : Prop :=
  m.Pairwise (fun c d => c.1 < d.1) ∧ ∀ c ∈ m, some c.2 ≠ unlisted

/-- The byte stored at an offset. -/
def Memory.readByte : Memory → Nat → Option Byte
  | [], _ => unlisted
  | c :: m, a => if c.1 = a then some c.2 else Memory.readByte m a

/-- Store one byte, keeping the offsets rising. -/
def Memory.writeByte : Memory → Nat → Byte → Memory
  | [], a, b => [(a, b)]
  | c :: m, a, b =>
    if a < c.1 then (a, b) :: c :: m
    else if a = c.1 then (a, b) :: m
    else c :: Memory.writeByte m a b

/-- The offset of BUF[0] (20_memory.md R41). -/
def bufBase : Nat := 0x1000

/-- The offset of BUF[i] (20_memory.md R41). -/
def entryOff (i : Nat) : Nat := bufBase + 4 * i

/-- The word stored in BUF[i], if entry i has been written since reset (10_state.md R30, 20_memory.md R42). -/
def Memory.entry (m : Memory) (i : Nat) : Option Word :=
  match m.readByte (entryOff i), m.readByte (entryOff i + 1), m.readByte (entryOff i + 2), m.readByte (entryOff i + 3) with
  | some b0, some b1, some b2, some b3 => some (wordOfLanes b0 b1 b2 b3)
  | _, _, _, _ => none

/-- `BUF_W[i]`, the hidden bit of 10_state.md R30. -/
def Memory.written (m : Memory) (i : Nat) : Bool := (m.entry i).isSome

/-- `BUF[i] <- w ; BUF_W[i] <- 1` (20_memory.md R46), lane by lane. -/
def Memory.setEntry (m : Memory) (i : Nat) (w : Word) : Memory :=
  (((m.writeByte (entryOff i) (laneOf w 0)).writeByte (entryOff i + 1) (laneOf w 1)).writeByte
    (entryOff i + 2) (laneOf w 2)).writeByte (entryOff i + 3) (laneOf w 3)

/-- One read of BUF[i]: the value and the number of the next free draw. An entry not written since reset gives a free
draw, a new one at each read (20_memory.md R53). -/
def Memory.readEntry (m : Memory) (i draw : Nat) : Word × Nat :=
  match m.entry i with
  | some w => (w, draw)
  | none => (Config.freeEntry draw, draw + 1)

/-- The bus address of a byte offset of the window (20_memory.md R41). -/
def busAddress (off : Nat) : Nat := Config.irptBase + off

/-- `raise BusError(addr)`: the access is refused and records nothing in the block (60_exceptions.md R125). -/
def busError (off : Nat) : Host.Outcome State Fault Refusal := .fault (.busError (busAddress off))

/-- An access outside the window is not addressed to the IRPT (20_memory.md R44). -/
def notAddressed (off : Nat) : Host.Outcome State Fault Refusal := .refused (.notAddressed (busAddress off))

/-- Asserting `rst` (70_reset_and_hazards.md R140): every piece of the spec's state takes its value of 10_state.md R38. The
environment's events, the data it has read and the number of the next draw are no state of the block and stay. -/
def resetBlock (s : State) : State :=
  { State.reset with inputs := s.inputs, reads := s.reads, draws := s.draws }

/-- Record the data a host read returns (20_memory.md R45). -/
def logRead (w : Word) (s : State) : State := { s with reads := s.reads ++ [w] }

end Sys2Proof.Machine
end

