-- ==== Sys2Proof/Machine/Flags.lean ====
section
/-! DEFINITION. STATUS: its word, its W1C bits, and the four events that write it (10_state.md R12 to R17, R37):
acceptance, completion, refusal and dropped writes; and the interrupt level. -/

namespace Sys2Proof.Machine

/-- The number of an error code (60_exceptions.md R120). -/
def ErrCode.code : ErrCode → BitVec 4
  | .none => 0
  | .shortBuffer => 1
  | .headerMismatch => 2
  | .bitMismatch => 3
  | .footerMismatch => 4
  | .strictLengthMismatch => 5
  | .configError => 6

/-- STATUS as one word (10_state.md section 2). -/
def Status.word (t : Status) : Word :=
  0#22 ++ BitVec.ofBool t.wErr ++ BitVec.ofBool t.cmdErr ++ t.err.code ++ 0#1
    ++ BitVec.ofBool t.success ++ BitVec.ofBool t.doneFlag ++ BitVec.ofBool t.busy

/-- A host write of STATUS: writing 1 clears DONE, CMDERR and WERR, other bits are ignored (20_memory.md R46). -/
def clearStatus (w : Word) (s : State) : State :=
  { s with status := { s.status with
      doneFlag := s.status.doneFlag && !w.getLsbD 1
      cmdErr := s.status.cmdErr && !w.getLsbD 8
      wErr := s.status.wErr && !w.getLsbD 9 } }

/-- Refusal of a command word: STATUS.CMDERR <- 1, and nothing else (40_command.md R72, R73). -/
def refuseCommand (s : State) : State := { s with status := { s.status with cmdErr := true } }

/-- A host write dropped while BUSY is 1: STATUS.WERR <- 1, and nothing else (20_memory.md R47). -/
def dropWrite (s : State) : State := { s with status := { s.status with wErr := true } }

/-- Acceptance of a command that puts the sequencer in state `q` (40_command.md R71). ENCODE also clears TX_SEGS. -/
def accept (q : Sequencer) (s : State) : State :=
  { s with
    status := { s.status with busy := true, doneFlag := false, success := false, err := .none }
    seq := q
    txSegs := if q = .runEncode then 0 else s.txSegs }

/-- Submission of a legal word other than NOP: refused while BUSY is 1, else accepted (40_command.md R70 to R72). -/
def submitCommand (q : Sequencer) (s : State) : State :=
  if s.status.busy then refuseCommand s else accept q s

/-- `complete(success, err)`, the last core step of every accepted command (40_command.md R74). -/
def complete (success : Bool) (err : ErrCode) (s : State) : State :=
  { s with
    status := { s.status with busy := false, doneFlag := true, success := success, err := err }
    seq := .idle }

/-- The interrupt level `irq` (10_state.md R35, 60_exceptions.md R127). -/
def State.irq (s : State) : Bool := s.status.doneFlag && s.doneIe

end Sys2Proof.Machine
end

