-- ==== Sys2Proof/Machine/Operands.lean ====
section
/-! DEFINITION. The register map (10_state.md section 1) and every operand form of the commands (30_encoding.md R68). -/

namespace Sys2Proof.Machine

/-- The registers of the map, in order of offset (10_state.md section 1). -/
inductive Reg where
  | cmd | status | inten | tolPct | tolAbs
  | hdrMark | hdrSpace | bitMark | oneSpace | zeroSpace | ftrMark | minGap | carrier
  | descNbits | repeatCount | protoTag
  | argNbits | offset | bufLen | payloadLo | payloadHi | meas | nom
  | resValueLo | resValueHi | resNbits | resTag | resConsumed | txSegs
  deriving DecidableEq, Repr

/-- How the host may access a register (10_state.md section 1). -/
inductive RegAccess where
  /-- write-only: CMD -/
  | wo
  /-- write-one-to-clear fields: STATUS -/
  | w1c
  /-- read-write -/
  | rw
  /-- read-only -/
  | ro
  deriving DecidableEq, Repr

/-- Every register once. -/
def allRegs : List Reg :=
  [.cmd, .status, .inten, .tolPct, .tolAbs,
   .hdrMark, .hdrSpace, .bitMark, .oneSpace, .zeroSpace, .ftrMark, .minGap, .carrier,
   .descNbits, .repeatCount, .protoTag,
   .argNbits, .offset, .bufLen, .payloadLo, .payloadHi, .meas, .nom,
   .resValueLo, .resValueHi, .resNbits, .resTag, .resConsumed, .txSegs]

/-- The byte offset of a register from IRPT_BASE. -/
def Reg.off : Reg → Nat
  | .cmd => 0x000
  | .status => 0x004
  | .inten => 0x008
  | .tolPct => 0x00C
  | .tolAbs => 0x010
  | .hdrMark => 0x020
  | .hdrSpace => 0x024
  | .bitMark => 0x028
  | .oneSpace => 0x02C
  | .zeroSpace => 0x030
  | .ftrMark => 0x034
  | .minGap => 0x038
  | .carrier => 0x03C
  | .descNbits => 0x040
  | .repeatCount => 0x044
  | .protoTag => 0x048
  | .argNbits => 0x050
  | .offset => 0x054
  | .bufLen => 0x058
  | .payloadLo => 0x05C
  | .payloadHi => 0x060
  | .meas => 0x064
  | .nom => 0x068
  | .resValueLo => 0x080
  | .resValueHi => 0x084
  | .resNbits => 0x088
  | .resTag => 0x08C
  | .resConsumed => 0x090
  | .txSegs => 0x094

/-- The access column of the register map. -/
def Reg.access : Reg → RegAccess
  | .cmd => .wo
  | .status => .w1c
  | .resValueLo | .resValueHi | .resNbits | .resTag | .resConsumed | .txSegs => .ro
  | .inten | .tolPct | .tolAbs
  | .hdrMark | .hdrSpace | .bitMark | .oneSpace | .zeroSpace | .ftrMark | .minGap | .carrier
  | .descNbits | .repeatCount | .protoTag
  | .argNbits | .offset | .bufLen | .payloadLo | .payloadHi | .meas | .nom => .rw

/-- The number of used bits of a register, all of them from bit 0 up (10_state.md section 1). -/
def Reg.usedBits : Reg → Nat
  | .cmd => 32
  | .status => 10
  | .inten => 1
  | .tolPct | .descNbits | .argNbits | .resNbits | .resConsumed => 8
  | .repeatCount | .protoTag | .offset | .resTag => 16
  | .bufLen => 17
  | .carrier => 24
  | .tolAbs | .hdrMark | .hdrSpace | .bitMark | .oneSpace | .zeroSpace | .ftrMark | .minGap
  | .payloadLo | .payloadHi | .meas | .nom | .resValueLo | .resValueHi | .txSegs => 32

/-- The register at a byte offset, if the map names one. -/
def Reg.ofOff (off : Nat) : Option Reg := allRegs.find? (fun r => r.off == off)

/-- The value a host read of a register returns, unused bits 0; CMD reads 0 (20_memory.md R45, 10_state.md R11, R36). -/
def readReg (s : State) : Reg → Word
  | .cmd => 0
  | .status => s.status.word
  | .inten => (BitVec.ofBool s.doneIe).setWidth 32
  | .tolPct => s.regs.tolPct.setWidth 32
  | .tolAbs => s.regs.tolAbs
  | .hdrMark => s.regs.hdrMark
  | .hdrSpace => s.regs.hdrSpace
  | .bitMark => s.regs.bitMark
  | .oneSpace => s.regs.oneSpace
  | .zeroSpace => s.regs.zeroSpace
  | .ftrMark => s.regs.ftrMark
  | .minGap => s.regs.minGap
  | .carrier => s.regs.carrier.setWidth 32
  | .descNbits => s.regs.descNbits.setWidth 32
  | .repeatCount => s.regs.repeatCount.setWidth 32
  | .protoTag => s.regs.protoTag.setWidth 32
  | .argNbits => s.regs.argNbits.setWidth 32
  | .offset => s.regs.offset.setWidth 32
  | .bufLen => s.regs.bufLen.setWidth 32
  | .payloadLo => s.regs.payloadLo
  | .payloadHi => s.regs.payloadHi
  | .meas => s.regs.meas
  | .nom => s.regs.nom
  | .resValueLo => s.res.valueLo
  | .resValueHi => s.res.valueHi
  | .resNbits => s.res.nbits.setWidth 32
  | .resTag => s.res.tag.setWidth 32
  | .resConsumed => s.res.consumed.setWidth 32
  | .txSegs => s.txSegs

/-- The clamp of a write to BUF_LEN: `min(w[16:0], BUF_DEPTH)` (10_state.md R28). -/
def clampLen (w : Word) : BitVec 17 := BitVec.ofNat 17 (min (w.setWidth 17).toNat Config.bufDepth)

/-- A write of an operand register: `reg[R] <- w[used bits of R]`, BUF_LEN clamped (20_memory.md R46). Registers that are
no operand registers are left alone. -/
def Operands.set (r : Operands) (x : Reg) (w : Word) : Operands :=
  match x with
  | .tolPct => { r with tolPct := w.setWidth 8 }
  | .tolAbs => { r with tolAbs := w }
  | .hdrMark => { r with hdrMark := w }
  | .hdrSpace => { r with hdrSpace := w }
  | .bitMark => { r with bitMark := w }
  | .oneSpace => { r with oneSpace := w }
  | .zeroSpace => { r with zeroSpace := w }
  | .ftrMark => { r with ftrMark := w }
  | .minGap => { r with minGap := w }
  | .carrier => { r with carrier := w.setWidth 24 }
  | .descNbits => { r with descNbits := w.setWidth 8 }
  | .repeatCount => { r with repeatCount := w.setWidth 16 }
  | .protoTag => { r with protoTag := w.setWidth 16 }
  | .argNbits => { r with argNbits := w.setWidth 8 }
  | .offset => { r with offset := w.setWidth 16 }
  | .bufLen => { r with bufLen := clampLen w }
  | .payloadLo => { r with payloadLo := w }
  | .payloadHi => { r with payloadHi := w }
  | .meas => { r with meas := w }
  | .nom => { r with nom := w }
  | .cmd | .status | .inten
  | .resValueLo | .resValueHi | .resNbits | .resTag | .resConsumed | .txSegs => r

/-- A performed host write of a RW register (20_memory.md R46): INTEN keeps bit 0, any other is an operand register. -/
def writeReg (x : Reg) (w : Word) (s : State) : State :=
  if x = .inten then { s with doneIe := w.getLsbD 0 } else { s with regs := s.regs.set x w }

/-- What an admitted access reaches (20_memory.md R41). -/
inductive Target where
  | reg (x : Reg)
  | buf (i : Nat)
  deriving DecidableEq, Repr

/-- The port's answer to an access's width and offset, before the access itself. -/
inductive Admission where
  | admitted (t : Target)
  | badAccess
  | outside
  deriving DecidableEq, Repr

/-- The window: offsets 0 to 0x1000 + 4*BUF_DEPTH - 1 (20_memory.md R41). -/
def inWindow (off : Nat) : Bool := decide (off < bufBase) || decide (off < bufBase + 4 * Config.bufDepth)

/-- The register or BUF entry at a word offset of the window (20_memory.md R41, R44). -/
def locate (off : Nat) : Option Target :=
  if off < bufBase then (Reg.ofOff off).map .reg else some (.buf ((off - bufBase) / 4))

/-- Admission of an access: the window, then size and alignment (R43), then the mapped offset (R44), as 60_exceptions.md
R126 orders them. The base is a multiple of 4, so an address is aligned when its offset is. -/
def admission (width off : Nat) : Admission :=
  if inWindow off then
    if width = 4 ∧ off % 4 = 0 then
      match locate off with
      | some t => .admitted t
      | none => .badAccess
    else .badAccess
  else .outside

/-- CARRIER.KHZ, bits 15:0 (10_state.md R22). -/
def Operands.khz (r : Operands) : BitVec 16 := r.carrier.extractLsb' 0 16

/-- CARRIER.DUTY_PCT, bits 23:16 (10_state.md R22). -/
def Operands.dutyPct (r : Operands) : BitVec 8 := r.carrier.extractLsb' 16 8

/-- `PAYLOAD = {PAYLOAD_HI, PAYLOAD_LO}` (10_state.md R29). -/
def Operands.payload (r : Operands) : BitVec 64 := r.payloadHi ++ r.payloadLo

/-- `{RES_VALUE_HI, RES_VALUE_LO}` (10_state.md R32). -/
def Results.value (r : Results) : BitVec 64 := r.valueHi ++ r.valueLo

end Sys2Proof.Machine
end

