-- ==== Sys2Proof/Machine/Matcher.lean ====
section
/-! DEFINITION. The tolerance matcher and MATCH (43_matcher.md). -/

namespace Sys2Proof.Machine

/-- `|m - n|` on natural numbers (43_matcher.md R110). -/
def distance (m n : Nat) : Nat := if n ≤ m then m - n else n - m

/-- `Match(m, n)` with tolerances tp (percent) and ta (microseconds), exact on natural numbers (43_matcher.md R110). -/
def matchNat (tp ta m n : Nat) : Bool := decide (100 * distance m n ≤ n * tp + 100 * ta)

/-- `AtLeast(m, g)` with tolerances tp and ta (43_matcher.md R111). -/
def atLeastNat (tp ta m g : Nat) : Bool := decide (100 * g ≤ 100 * m + g * tp + 100 * ta)

/-- `Match(m, n)` with the tolerance registers (43_matcher.md R110). -/
def Operands.matches (r : Operands) (m n : Word) : Bool :=
  matchNat r.tolPct.toNat r.tolAbs.toNat m.toNat n.toNat

/-- `AtLeast(m, g)` with the tolerance registers (43_matcher.md R111). -/
def Operands.atLeast (r : Operands) (m g : Word) : Bool :=
  atLeastNat r.tolPct.toNat r.tolAbs.toNat m.toNat g.toNat

/-- MATCH, the host step that submits it (40_command.md R70 to R72). Its one core step is `coreMatch`. -/
def execMatch (s : State) : Host.Outcome State Fault Refusal := .next (submitCommand .runMatch s)

/-- MATCH, its one core step: `complete(Match(MEAS, NOM), 0)` (43_matcher.md R112). -/
def coreMatch (s : State) : State := complete (s.regs.matches s.regs.meas s.regs.nom) .none s

end Sys2Proof.Machine
end

