-- ==== Sys2Proof/Machine/Decoder.lean ====
section
/-! DEFINITION. The decoder and DECODE (42_decoder.md). -/

namespace Sys2Proof.Machine

/-- What `Decode()` returns (42_decoder.md R90). -/
inductive DecodeResult where
  | success (value : BitVec 64) (nbits consumed : Nat)
  | failure (e : ErrCode)
  deriving DecidableEq, Repr

/-- The loop over data bits: `left` bits remain, `k` is the number of the next one, `value` holds the bits so far
(42_decoder.md R95, R96). It returns no value on a mismatch, and the number of the next free draw. -/
def decodeBits (r : Operands) (m : Memory) (p : Nat) : (left k : Nat) → BitVec 64 → Nat → Option (BitVec 64) × Nat
  | 0, _, value, draw => (some value, draw)
  | left + 1, k, value, draw =>
    let bm := m.readEntry (p + 2 + 2 * k) draw
    if r.matches bm.1 r.bitMark then
      let sp := m.readEntry (p + 3 + 2 * k) bm.2
      if r.matches sp.1 r.oneSpace then decodeBits r m p left (k + 1) (value <<< 1 ||| 1#64) sp.2
      else if r.matches sp.1 r.zeroSpace then decodeBits r m p left (k + 1) (value <<< 1) sp.2
      else (none, sp.2)
    else (none, bm.2)

/-- The frame length in entries, the gap not counted: `2 + 2n + 1` (42_decoder.md R93). -/
def Operands.need (r : Operands) : Nat := 2 + 2 * r.argNbits.toNat + 1

/-- The entries from OFFSET to BUF_LEN (42_decoder.md R93). -/
def Operands.avail (r : Operands) : Nat :=
  if r.offset.toNat ≤ r.bufLen.toNat then r.bufLen.toNat - r.offset.toNat else 0

/-- The gap entry is present (42_decoder.md R98). -/
def Operands.gapPresent (r : Operands) : Bool := decide (r.need < r.avail)

/-- The checks that read BUF, in order: header, data bits, footer mark, gap (42_decoder.md R94 to R99). -/
def decodeEntries (r : Operands) (m : Memory) (draw : Nat) : DecodeResult × Nat :=
  let n := r.argNbits.toNat
  let p := r.offset.toNat
  let hm := m.readEntry p draw
  if r.matches hm.1 r.hdrMark then
    let hs := m.readEntry (p + 1) hm.2
    if r.matches hs.1 r.hdrSpace then
      match decodeBits r m p n 0 0 hs.2 with
      | (none, d) => (.failure .bitMismatch, d)
      | (some value, d) =>
        let fm := m.readEntry (p + 2 + 2 * n) d
        if r.matches fm.1 r.ftrMark then
          if r.gapPresent then
            let gap := m.readEntry (p + 3 + 2 * n) fm.2
            if r.atLeast gap.1 r.minGap then (.success value n r.need, gap.2)
            else (.failure .footerMismatch, gap.2)
          else (.success value n r.need, fm.2)
        else (.failure .footerMismatch, fm.2)
    else (.failure .headerMismatch, hs.2)
  else (.failure .headerMismatch, hm.2)

/-- `Decode()`: the checks of 42_decoder.md R90 in their order, with the number of the next free draw. -/
def decodeFrame (strict gapreq : Bool) (r : Operands) (m : Memory) (draw : Nat) : DecodeResult × Nat :=
  if strict = true ∧ r.argNbits ≠ r.descNbits then (.failure .strictLengthMismatch, draw)
  else if 64 < r.argNbits.toNat then (.failure .configError, draw)
  else if r.avail < r.need then (.failure .shortBuffer, draw)
  else if gapreq = true ∧ r.gapPresent = false then (.failure .shortBuffer, draw)
  else decodeEntries r m draw

/-- DECODE, the host step that submits it (40_command.md R70 to R72). Its one core step is `coreDecode`. -/
def execDecode (strict gapreq : Bool) (s : State) : Host.Outcome State Fault Refusal :=
  .next (submitCommand (.runDecode strict gapreq) s)

/-- DECODE, its one core step: the result registers, then completion (42_decoder.md R90). -/
def coreDecode (strict gapreq : Bool) (s : State) : State :=
  match decodeFrame strict gapreq s.regs s.buf s.draws with
  | (.success value n consumed, d) =>
    complete true .none { s with
      res := { valueLo := value.extractLsb' 0 32, valueHi := value.extractLsb' 32 32
               nbits := BitVec.ofNat 8 n, tag := s.regs.protoTag, consumed := BitVec.ofNat 8 consumed }
      draws := d }
  | (.failure e, d) => complete false e { s with res := Results.zero, draws := d }

end Sys2Proof.Machine
end

