-- ==== Sys2Proof/Machine/Encoder.lean ====
section
/-! DEFINITION. The encoder and ENCODE (41_encoder.md), and the line `ir_tx`. -/

namespace Sys2Proof.Machine

/-- The segments of data bits n-1 down to 0 of v (41_encoder.md R81). -/
def dataSegments (r : Operands) (v : BitVec 64) : Nat → List Segment
  | 0 => []
  | i + 1 =>
    ⟨.mark, r.bitMark⟩ :: ⟨.space, if v.getLsbD i then r.oneSpace else r.zeroSpace⟩ :: dataSegments r v i

/-- `Frame(n, v)`: header, data bits MSB first, footer mark and gap (41_encoder.md R81, R88). -/
def frame (r : Operands) (n : Nat) (v : BitVec 64) : List Segment :=
  [⟨.mark, r.hdrMark⟩, ⟨.space, r.hdrSpace⟩] ++ dataSegments r v n ++ [⟨.mark, r.ftrMark⟩, ⟨.space, r.minGap⟩]

/-- `EncodeSeq`: REPEAT+1 copies of the frame of PAYLOAD's ARG_NBITS bits (41_encoder.md R82). -/
def encodeSeq (r : Operands) : List Segment :=
  (List.replicate (r.repeatCount.toNat + 1) (frame r r.argNbits.toNat r.payload)).flatten

/-- N, the number of segments of `EncodeSeq` (41_encoder.md R82). -/
def segmentCount (r : Operands) : Nat := (r.repeatCount.toNat + 1) * (2 * r.argNbits.toNat + 4)

/-- Valid, checked in the first core step of ENCODE (41_encoder.md R80). -/
def encodeValid (r : Operands) : Bool :=
  decide (r.argNbits.toNat ≤ 64) && decide (r.khz ≠ 0) && decide (1 ≤ r.dutyPct.toNat) && decide (r.dutyPct.toNat ≤ 100)

/-- `emit(lvl, d)` and the count of begun segments (41_encoder.md R83, R84; 10_state.md R33). -/
def emit (seg : Segment) (s : State) : State := { s with txlog := s.txlog ++ [seg], txSegs := s.txSegs + 1 }

/-- ENCODE, the host step that submits it (40_command.md R70 to R72). Its core steps are `coreEncode`. -/
def execEncode (s : State) : Host.Outcome State Fault Refusal := .next (submitCommand .runEncode s)

/-- ENCODE, one core step (41_encoder.md R83). `EncodeSeq` has N segments, so asking for segment TX_SEGS is the test
TX_SEGS < N. -/
def coreEncode (s : State) : State :=
  if s.txSegs = 0 ∧ encodeValid s.regs = false then complete false .configError s
  else
    match (encodeSeq s.regs)[s.txSegs.toNat]? with
    | some seg => emit seg s
    | none => complete true .none s

/-- The segment that `ir_tx` carries: while an ENCODE has begun one, the last of TXLOG; else none, the line is off
(41_encoder.md R84, 60_exceptions.md R136). That it is read from SEQ, TX_SEGS and TXLOG is DEDUCED (log entry 13). -/
def State.irTx (s : State) : Option Segment :=
  if s.seq = .runEncode ∧ s.txSegs ≠ 0 then s.txlog.getLast? else none

/-- The carrier is on while a mark is emitted; a segment of duration 0 lasts no time (41_encoder.md R84, R87; DEDUCED, log
entry 13). -/
def State.carrierOn (s : State) : Bool :=
  match s.irTx with
  | some seg => decide (seg.level = .mark) && decide (seg.dur ≠ 0)
  | none => false

/-- The level of the line at an instant of the present segment: the waveform of CARRIER_IMPL while the carrier is on, the off
level otherwise. DESIGN CHOICE (log entry 19): D27 and N13 leave polarity and phase open, so the off level and the phase at
the start of each mark are opaque; that the waveform depends only on KHZ, DUTY_PCT, the number of the segment and the
instant, and that the off level is constant, are the model's. -/
def State.irTxLine (s : State) (instant : Nat) : Bool :=
  if s.carrierOn then Config.carrierImpl s.regs.khz s.regs.dutyPct s.txlog.length instant else Config.carrierOffLevel

/-- The sum of the durations of some segments, in microseconds. -/
def totalDuration (l : List Segment) : Nat := (l.map (fun g => g.dur.toNat)).sum

end Sys2Proof.Machine
end

