-- ==== Sys2Proof/Machine/Nop.lean ====
section
/-! DEFINITION. NOP (40_command.md R75). -/

namespace Sys2Proof.Machine

/-- NOP: no effect, never refused, also while a command runs. -/
def execNop (s : State) : Host.Outcome State Fault Refusal := .next s

end Sys2Proof.Machine
end

