-- ==== Sys2Proof/Machine/Dispatch.lean ====
section
/-! DEFINITION. The meaning of each instruction, arm by arm: what its submission does (40_command.md R70). -/

namespace Sys2Proof.Machine

def exec (i : Instr) (s : State) : Host.Outcome State Fault Refusal :=
  match i with
  | .nop => Sys2Proof.Machine.execNop s
  | .matchTol => Sys2Proof.Machine.execMatch s
  | .encode => Sys2Proof.Machine.execEncode s
  | .decode strict gapreq => Sys2Proof.Machine.execDecode strict gapreq s

end Sys2Proof.Machine
end

