-- ==== Sys2Proof/Machine/Port.lean ====
section
/-! DEFINITION. The host port (20_memory.md R43 to R47), the submission of a command word (40_command.md R70) and the
core's turn (20_memory.md R49). -/

namespace Sys2Proof.Machine

/-- `submit(w)` (40_command.md R70): an illegal word is refused (R73), a legal one runs its instruction's meaning. -/
def submit (w : Word) (s : State) : Host.Outcome State Fault Refusal :=
  match decodeWord w with
  | .ok i => exec i s
  | .error _ => .next (refuseCommand s)

/-- An admitted host read (20_memory.md R45, R53). -/
def hostRead (t : Target) (s : State) : Host.Outcome State Fault Refusal :=
  match t with
  | .reg x => .next (logRead (readReg s x) s)
  | .buf i =>
    let e := s.buf.readEntry i s.draws
    .next (logRead e.1 { s with draws := e.2 })

/-- An admitted host write (20_memory.md R46), dropped while BUSY is 1 where R47 says so. -/
def hostWrite (t : Target) (w : Word) (s : State) : Host.Outcome State Fault Refusal :=
  match t with
  | .reg x =>
    match x.access with
    | .wo => submit w s
    | .w1c => .next (clearStatus w s)
    | .ro => .next s
    | .rw => if s.status.busy = true ∧ x ≠ .inten then .next (dropWrite s) else .next (writeReg x w s)
  | .buf i => if s.status.busy then .next (dropWrite s) else .next { s with buf := s.buf.setEntry i w }

/-- One host step (20_memory.md R49): admission (R43, R44), then the access itself. -/
def hostStep (a : Access) (s : State) : Host.Outcome State Fault Refusal :=
  match a with
  | .read width off =>
    match admission width off with
    | .admitted t => hostRead t s
    | .badAccess => busError off
    | .outside => notAddressed off
  | .write width off w =>
    match admission width off with
    | .admitted t => hostWrite t w s
    | .badAccess => busError off
    | .outside => notAddressed off

/-- One turn of the core (20_memory.md R49): the core step of the running command; none is enabled while SEQ is IDLE. -/
def coreStep (s : State) : State :=
  match s.seq with
  | .idle => s
  | .runMatch => coreMatch s
  | .runEncode => coreEncode s
  | .runDecode strict gapreq => coreDecode strict gapreq s

/-- A host write of a command word to CMD, as an event (40_command.md R70). -/
def commandEvent (w : Word) : Event := .host (.write 4 Reg.cmd.off w)

end Sys2Proof.Machine
end

