-- ==== Sys2Proof/Machine/Step.lean ====
section
/-! DEFINITION. One step of the machine (20_memory.md R49): a host step, a core step or a reset step, as the next event says;
when no event is left the core has the turn (its clock runs, 40_command.md R74). -/

namespace Sys2Proof.Machine

def step (s : State) : Host.Outcome State Fault Refusal :=
  match s.inputs with
  | .host a :: rest => hostStep a { s with inputs := rest }
  | .core :: rest => .next (coreStep { s with inputs := rest })
  | .reset :: rest => .next (resetBlock { s with inputs := rest })
  | [] => .next (coreStep s)

/-- The IRPT fetches nothing (20_memory.md R51): its next instruction is the word of the next CMD write. So the word is put
there, as the very next event. -/
def State.withFetchWord (s : State) (nbits w : Nat) : State :=
  { s with inputs := commandEvent (tableWord nbits w) :: s.inputs }

end Sys2Proof.Machine
end

