-- ==== Sys2Proof/Safety.lean ====
section
/-! DEFINITION. The terms in which claims are stated: runs without bus errors, the invariant of every step, core steps in a
row, and what a DECODE sees of BUF. -/

namespace Sys2Proof.Machine

/-- The width of an access in bytes. -/
def Access.width : Access → Nat
  | .read width _ => width
  | .write width _ _ => width

/-- The offset of an access. -/
def Access.off : Access → Nat
  | .read _ off => off
  | .write _ off _ => off

/-- The port admits the access: it reaches a register or a BUF entry. -/
def Access.isAdmitted (a : Access) : Bool :=
  match admission a.width a.off with
  | .admitted _ => true
  | .badAccess => false
  | .outside => false

/-- The event raises no BusError and is addressed to the IRPT. -/
def Event.isAdmitted : Event → Bool
  | .host a => a.isAdmitted
  | .core => true
  | .reset => true

/-- The premise "no BusError" of 60_exceptions.md R125 on the host program still to come. -/
def State.hostSafe (s : State) : Bool := s.inputs.all Event.isAdmitted

/-- The state with one more external event, which happens before those still to come. -/
def State.push (s : State) (e : Event) : State := { s with inputs := e :: s.inputs }

/-- The next event is the core's turn, or none is left and the core runs on. -/
def State.coreTurn (s : State) : Prop := s.inputs.head? = some .core ∨ s.inputs = []

/-- The next event is a host write of the word `w` at offset `off`. -/
def State.writesNext (s : State) (off : Nat) (w : Word) : Prop := s.inputs.head? = some (.host (.write 4 off w))

/-- The step from `s` to `s'` is the completion of a command (40_command.md R74). -/
def completes (s s' : State) : Prop := s.coreTurn ∧ s.seq ≠ .idle ∧ s'.seq = .idle

/-- The next event is the submission of a word that the block accepts (40_command.md R70, R71). -/
def State.acceptsNext (s : State) : Prop :=
  s.status.busy = false ∧ ∃ w, s.writesNext 0x000 w ∧ legal w = true ∧ w ≠ 0

/-- The register map as the host reads it (10_state.md section 1): each named offset with the field it returns, unused bits 0.
STATUS's word is laid out in `Obligations.StatusWordLayout`. -/
def State.readMap (s : State) : List (Nat × Word) :=
  [(0x000, 0), (0x004, readReg s .status), (0x008, if s.doneIe then 1 else 0),
   (0x00C, s.regs.tolPct.setWidth 32), (0x010, s.regs.tolAbs),
   (0x020, s.regs.hdrMark), (0x024, s.regs.hdrSpace), (0x028, s.regs.bitMark), (0x02C, s.regs.oneSpace),
   (0x030, s.regs.zeroSpace), (0x034, s.regs.ftrMark), (0x038, s.regs.minGap), (0x03C, s.regs.carrier.setWidth 32),
   (0x040, s.regs.descNbits.setWidth 32), (0x044, s.regs.repeatCount.setWidth 32), (0x048, s.regs.protoTag.setWidth 32),
   (0x050, s.regs.argNbits.setWidth 32), (0x054, s.regs.offset.setWidth 32), (0x058, s.regs.bufLen.setWidth 32),
   (0x05C, s.regs.payloadLo), (0x060, s.regs.payloadHi), (0x064, s.regs.meas), (0x068, s.regs.nom),
   (0x080, s.res.valueLo), (0x084, s.res.valueHi), (0x088, s.res.nbits.setWidth 32), (0x08C, s.res.tag.setWidth 32),
   (0x090, s.res.consumed.setWidth 32), (0x094, s.txSegs)]

/-- The operand registers as the host writes them (10_state.md section 1): each offset with the operands that a write of `w`
there leaves, the used bits of `w` in one field. BUF_LEN, at 0x058, clamps and stands apart. -/
def Operands.writeMap (r : Operands) (w : Word) : List (Nat × Operands) :=
  [(0x00C, { r with tolPct := w.setWidth 8 }), (0x010, { r with tolAbs := w }),
   (0x020, { r with hdrMark := w }), (0x024, { r with hdrSpace := w }), (0x028, { r with bitMark := w }),
   (0x02C, { r with oneSpace := w }), (0x030, { r with zeroSpace := w }), (0x034, { r with ftrMark := w }),
   (0x038, { r with minGap := w }), (0x03C, { r with carrier := w.setWidth 24 }),
   (0x040, { r with descNbits := w.setWidth 8 }), (0x044, { r with repeatCount := w.setWidth 16 }),
   (0x048, { r with protoTag := w.setWidth 16 }), (0x050, { r with argNbits := w.setWidth 8 }),
   (0x054, { r with offset := w.setWidth 16 }), (0x05C, { r with payloadLo := w }), (0x060, { r with payloadHi := w }),
   (0x064, { r with meas := w }), (0x068, { r with nom := w })]

/-- The offsets of the read-write registers other than INTEN (10_state.md section 1). -/
def operandOffsets : List Nat :=
  [0x00C, 0x010, 0x020, 0x024, 0x028, 0x02C, 0x030, 0x034, 0x038, 0x03C, 0x040, 0x044, 0x048, 0x050, 0x054, 0x058, 0x05C,
   0x060, 0x064, 0x068]

/-- The offsets of the read-only registers (10_state.md section 1). -/
def readOnlyOffsets : List Nat := [0x080, 0x084, 0x088, 0x08C, 0x090, 0x094]

/-- The next core step of a running ENCODE emits a segment (41_encoder.md R83). -/
def State.emitsNext (s : State) : Prop :=
  (s.txSegs ≠ 0 ∨ encodeValid s.regs = true) ∧ s.txSegs.toNat < segmentCount s.regs

/-- The values of 10_state.md R38, register by register as the host reads them, and the rest of the spec's state. -/
def State.atReset (t : State) : Prop :=
  t.regs.tolPct = Config.tolPctReset ∧ t.regs.tolAbs = Config.tolAbsReset ∧
    (∀ x : Reg, x ≠ .tolPct → x ≠ .tolAbs → readReg t x = 0) ∧
    (∀ i, t.buf.written i = false) ∧ t.seq = .idle ∧ t.txlog = [] ∧ t.irq = false ∧ t.irTx = none ∧ t.carrierOn = false

/-- `k` turns of the core in a row. -/
def coreSteps : Nat → State → State
  | 0, s => s
  | k + 1, s => coreSteps k (coreStep s)

/-- The number of the draw that the entry at distance `j` from `p` would take, when the entries from `p` are read in
order, each once, the first draw being number `draw` (20_memory.md R53). -/
def drawBefore (m : Memory) (p draw : Nat) : Nat → Nat
  | 0 => draw
  | j + 1 => (m.readEntry (p + j) (drawBefore m p draw j)).2

/-- The value that DECODE reads at distance `j` from OFFSET: the stored entry, or the free draw that falls on it
(42_decoder.md R90, R101). -/
def State.seen (s : State) (j : Nat) : Word :=
  (s.buf.readEntry (s.regs.offset.toNat + j) (drawBefore s.buf s.regs.offset.toNat s.draws j)).1

/-- The number of the next draw after DECODE has read its first `j` entries. -/
def State.drawAfter (s : State) (j : Nat) : Nat := drawBefore s.buf s.regs.offset.toNat s.draws j

/-- The checks of DECODE before it reads BUF all pass: the bit counts agree in strict mode, n ≤ 64, and the frame, with the gap
entry if it is required, lies below BUF_LEN (42_decoder.md R91 to R93). -/
def Operands.frameFits (r : Operands) (strict gapreq : Bool) : Prop :=
  (strict = true → r.argNbits = r.descNbits) ∧ r.argNbits.toNat ≤ 64 ∧
    r.offset.toNat + (2 * r.argNbits.toNat + 3) ≤ r.bufLen.toNat ∧
    (gapreq = true → r.offset.toNat + (2 * r.argNbits.toNat + 3) < r.bufLen.toNat)

/-- The header entries match (42_decoder.md R94). -/
def State.headerOk (s : State) : Prop :=
  s.regs.matches (s.seen 0) s.regs.hdrMark = true ∧ s.regs.matches (s.seen 1) s.regs.hdrSpace = true

/-- The mark entry of data bit `k` matches (42_decoder.md R95). -/
def State.bitMarkOk (s : State) (k : Nat) : Prop := s.regs.matches (s.seen (2 + 2 * k)) s.regs.bitMark = true

/-- The space entry of data bit `k` matches ONE_SPACE or ZERO_SPACE (42_decoder.md R96). -/
def State.bitSpaceOk (s : State) (k : Nat) : Prop :=
  s.regs.matches (s.seen (3 + 2 * k)) s.regs.oneSpace = true ∨ s.regs.matches (s.seen (3 + 2 * k)) s.regs.zeroSpace = true

/-- The pair of data bit `k` matches. -/
def State.bitOk (s : State) (k : Nat) : Prop := s.bitMarkOk k ∧ s.bitSpaceOk k

/-- STATUS at the end of a command with the given outcome (40_command.md R74). -/
def Status.completed (t : Status) (success : Bool) (err : ErrCode) : Status :=
  { busy := false, doneFlag := true, success := success, err := err, cmdErr := t.cmdErr, wErr := t.wErr }

/-- STATUS after the acceptance of a command (40_command.md R71). -/
def Status.accepted (t : Status) : Status :=
  { busy := true, doneFlag := false, success := false, err := .none, cmdErr := t.cmdErr, wErr := t.wErr }

/-- The end of a DECODE that failed with error `e`, `draw` being the number of the next draw (42_decoder.md R90, R100). -/
def State.decodeFailed (s : State) (e : ErrCode) (draw : Nat) : State :=
  { s with status := s.status.completed false e, seq := .idle, res := Results.zero, draws := draw }

/-- T_encode in microseconds (70_reset_and_hazards.md R148), `ones` being the number of 1 bits sent in a frame. -/
def encodeTime (r : Operands) (ones : Nat) : Nat :=
  (r.repeatCount.toNat + 1) *
    (r.hdrMark.toNat + r.hdrSpace.toNat + r.argNbits.toNat * r.bitMark.toNat + ones * r.oneSpace.toNat
      + (r.argNbits.toNat - ones) * r.zeroSpace.toNat + r.ftrMark.toNat + r.minGap.toNat)

/-- `popcount(v mod 2^n)`: the number of 1 bits among bits n-1 to 0. -/
def popcountLow (v : BitVec 64) (n : Nat) : Nat := (List.range n).countP (fun i => v.getLsbD i)

/-- BUF's bytes lie in the window and come as whole entries. -/
def Memory.wholeEntries (m : Memory) : Prop :=
  ∀ c ∈ m, ∃ i, i < Config.bufDepth ∧ entryOff i ≤ c.1 ∧ c.1 < entryOff i + 4 ∧ (m.entry i).isSome = true

/-- What the result registers may hold: nothing, or a decoded value of n ≤ 64 bits with its count 2n+3
(10_state.md R32, 42_decoder.md R96, R99, R100). -/
def Results.consistent (r : Results) : Prop :=
  r = Results.zero ∨
    (r.nbits.toNat ≤ 64 ∧ r.consumed.toNat = 2 * r.nbits.toNat + 3 ∧ r.value.toNat < 2 ^ r.nbits.toNat)

/-- What a running ENCODE has emitted: the first TX_SEGS segments of EncodeSeq stand at the end of TXLOG, and none if the
operands are not valid (41_encoder.md R83). -/
def State.emission (s : State) : Prop :=
  s.txSegs.toNat ≤ segmentCount s.regs ∧ (s.txSegs ≠ 0 → encodeValid s.regs = true) ∧
    ∃ before, s.txlog = before ++ (encodeSeq s.regs).take s.txSegs.toNat

/-- The invariant of every step. -/
structure Inv (s : State) : Prop where
  /-- BUF keeps its canonical form -/
  bufWf : s.buf.wf
  /-- BUF holds whole entries of the window -/
  bufWhole : s.buf.wholeEntries
  /-- SEQ is IDLE exactly when BUSY is 0 (10_state.md R34) -/
  busySeq : s.status.busy = true ↔ s.seq ≠ .idle
  /-- BUF_LEN is at most BUF_DEPTH (10_state.md R28) -/
  lenDepth : s.regs.bufLen.toNat ≤ Config.bufDepth
  /-- between acceptance and completion DONE, SUCCESS and ERR read 0 (70_reset_and_hazards.md R145) -/
  busyFlags : s.status.busy = true → s.status.doneFlag = false ∧ s.status.success = false ∧ s.status.err = .none
  /-- a successful command has no error code (40_command.md R74) -/
  successErr : s.status.success = true → s.status.err = .none
  /-- no partial result (42_decoder.md R100) -/
  results : s.res.consistent
  /-- TXLOG follows EncodeSeq (41_encoder.md R83) -/
  emitting : s.seq = .runEncode → s.emission

end Sys2Proof.Machine
end

