-- ==== Sys2Proof/Certificates/Slice0/Obligations.lean ====
section
/-! DEFINITION. The statements about the model, from the numbered rules of spec/ (OBLIGATIONS.json lists them). -/

open Sys2Proof Sys2Proof.Machine

/-! ### Encoding -/

/-- The words of the opcode table decode to the commands they stand for (30_encoding.md section 3). -/
def Obligations.TableWordsDecode : Prop :=
  decodeWord 0x00000000#32 = .ok .nop ∧ decodeWord 0x00000001#32 = .ok .matchTol ∧
    decodeWord 0x00000002#32 = .ok .encode ∧ decodeWord 0x00000003#32 = .ok (.decode false false) ∧
    decodeWord 0x00000103#32 = .ok (.decode true false) ∧ decodeWord 0x00000203#32 = .ok (.decode false true) ∧
    decodeWord 0x00000303#32 = .ok (.decode true true)

/-- 30_encoding.md R64: the words that decode are exactly those of the formula `legal(w)`, each row of the table stands for its
words, and there are exactly 7 of them. -/
def Obligations.LegalWordsAreExactlySeven : Prop :=
  (∀ w : Word, legal w = true ↔
      (w.toNat % 16 ≤ 3 ∧ w.toNat / 16 % 16 = 0 ∧ w.toNat / 1024 = 0 ∧
        (w.toNat % 16 = 3 ∨ w.toNat / 256 % 4 = 0))) ∧
    (∀ w : Word, (∃ i, decodeWord w = .ok i) ↔ legal w = true) ∧
    (∀ w : Word, decodeWord w = .ok .nop ↔ w = 0x00000000#32) ∧
    (∀ w : Word, decodeWord w = .ok .matchTol ↔ w = 0x00000001#32) ∧
    (∀ w : Word, decodeWord w = .ok .encode ↔ w = 0x00000002#32) ∧
    (∀ (w : Word) (strict gapreq : Bool), decodeWord w = .ok (.decode strict gapreq) ↔
      (w &&& 0xFFFFFCFF#32 = 0x00000003#32 ∧ w.getLsbD 8 = strict ∧ w.getLsbD 9 = gapreq)) ∧
    (∀ w : Word, legal w = true ↔
      w ∈ [0x00000000#32, 0x00000001#32, 0x00000002#32, 0x00000003#32, 0x00000103#32, 0x00000203#32, 0x00000303#32])

/-- Decoding and encoding agree in both directions, over bytes in lane order (30_encoding.md R60, R64; 20_memory.md R42). -/
def Obligations.DecodeEncodeAgree : Prop :=
  ∀ (i : Instr) (bytes rest : List Byte), decodeBytes bytes = .ok (i, rest) ↔ bytes = encodeBytes i ++ rest

/-! ### Steps -/

/-- A step whose event is the host write of a command word to CMD runs the decoded instruction, and nothing is added around it.
The event list is the model's own (log entries 3 and 10). -/
def Obligations.StepRunsDecodedCommand : Prop :=
  (∀ (s : State) (w : Word) (i : Instr), decodeWord w = .ok i → step (s.push (commandEvent w)) = exec i s) ∧
    (∀ (s : State) (i : Instr), step (s.withFetchWord 32 (encodeWord i).toNat) = exec i s)

/-- Whose turn a step is (20_memory.md R49): the core's on its event and when no event is left, and nothing happens in the
core while SEQ is IDLE. The event list is the model's own (log entry 3). -/
def Obligations.StepTakesTurns : Prop :=
  (∀ s : State, step (s.push .core) = .next (coreStep s)) ∧
    (∀ s : State, s.inputs = [] → step s = .next (coreStep s)) ∧
    (∀ s : State, s.seq = .idle → coreStep s = s) ∧
    (∀ s : State, s.seq = .runMatch → coreStep s = coreMatch s) ∧
    (∀ s : State, s.seq = .runEncode → coreStep s = coreEncode s) ∧
    (∀ (s : State) (strict gapreq : Bool), s.seq = .runDecode strict gapreq → coreStep s = coreDecode strict gapreq s)

/-- When the host is quiet, k steps of the machine are k core steps. The empty event list is the model's own (log entry 3). -/
def Obligations.QuietHostRunsCore : Prop :=
  ∀ (k : Nat) (s : State), s.inputs = [] → Host.Core.run Sys2Proof.core k s = .next (coreSteps k s)

/-- R38 and R140: the state after reset, and after a reset step whatever the state was; the reset step always answers. -/
def Obligations.ResetLeavesStatedValues : Prop :=
  State.reset.atReset ∧ ∀ s : State, ∃ t, step (s.push .reset) = .next t ∧ t.atReset

/-! ### Submission of commands -/

/-- R70 to R73: the four cases of a submission, in order. -/
def Obligations.SubmissionTakesFirstCase : Prop :=
  ∀ (s : State) (w : Word), step (s.push (.host (.write 4 0x000 w))) = .next (
    if legal w = false then { s with status := { s.status with cmdErr := true } }
    else if w.extractLsb' 0 4 = 0#4 then s
    else if s.status.busy = true then { s with status := { s.status with cmdErr := true } }
    else if w.extractLsb' 0 4 = 1#4 then { s with status := s.status.accepted, seq := .runMatch }
    else if w.extractLsb' 0 4 = 2#4 then { s with status := s.status.accepted, seq := .runEncode, txSegs := 0 }
    else { s with status := s.status.accepted, seq := .runDecode (w.getLsbD 8) (w.getLsbD 9) })

/-- R75 and R66: NOP has no effect, also while a command runs. -/
def Obligations.NopHasNoEffect : Prop :=
  ∀ s : State, exec .nop s = .next s ∧ step (s.push (commandEvent 0x00000000#32)) = .next s

/-- R72: a busy block refuses every command but NOP, and the running command goes on unaffected. -/
def Obligations.BusyBlockRefusesCommand : Prop :=
  ∀ (s : State) (i : Instr), s.status.busy = true → i ≠ .nop →
    exec i s = .next { s with status := { s.status with cmdErr := true } } ∧
      coreStep { s with status := { s.status with cmdErr := true } } =
        { coreStep s with status := { (coreStep s).status with cmdErr := true } }

/-- R71: acceptance of each command. -/
def Obligations.IdleBlockAcceptsCommand : Prop :=
  ∀ s : State, s.status.busy = false →
    exec .matchTol s = .next { s with status := s.status.accepted, seq := .runMatch } ∧
      exec .encode s = .next { s with status := s.status.accepted, seq := .runEncode, txSegs := 0 } ∧
      (∀ strict gapreq, exec (.decode strict gapreq) s =
        .next { s with status := s.status.accepted, seq := .runDecode strict gapreq }) ∧
      (∀ (i : Instr) (t : State), i ≠ .nop → exec i s = .next t → t.irq = false)

/-- The frame of a submission: what no command's submission changes; TX_SEGS only ENCODE's. The fields `inputs`, `reads` and
`draws` are the model's own (log entries 3 to 5). -/
def Obligations.SubmissionFrame : Prop :=
  ∀ (i : Instr) (s t : State), exec i s = .next t →
    t.regs = s.regs ∧ t.res = s.res ∧ t.txlog = s.txlog ∧ t.doneIe = s.doneIe ∧ t.status.wErr = s.status.wErr ∧
      t.inputs = s.inputs ∧ t.reads = s.reads ∧ t.draws = s.draws ∧ (i ≠ .encode → t.txSegs = s.txSegs) ∧
      ∀ a, t.buf.readByte a = s.buf.readByte a

/-- The frame of a core step: no operand register, no byte of BUF, no INTEN, CMDERR or WERR; RES_* only in a DECODE, TX_SEGS
and TXLOG only in an ENCODE (10_state.md R30, R32, R33; 30_encoding.md R68). The fields `inputs`, `reads` and `draws` are the
model's own (log entries 3 to 5). -/
def Obligations.CoreStepFrame : Prop :=
  ∀ s : State,
    (coreStep s).regs = s.regs ∧ (coreStep s).doneIe = s.doneIe ∧ (coreStep s).status.cmdErr = s.status.cmdErr ∧
      (coreStep s).status.wErr = s.status.wErr ∧ (coreStep s).inputs = s.inputs ∧ (coreStep s).reads = s.reads ∧
      (∀ a, (coreStep s).buf.readByte a = s.buf.readByte a) ∧
      ((∀ strict gapreq, s.seq ≠ .runDecode strict gapreq) →
        (coreStep s).res = s.res ∧ (coreStep s).draws = s.draws) ∧
      (s.seq ≠ .runEncode → (coreStep s).txSegs = s.txSegs ∧ (coreStep s).txlog = s.txlog)

/-- R74 and R145: an accepted command completes after the stated number of core steps, and until then BUSY is 1 and DONE,
SUCCESS and ERR read 0. -/
def Obligations.AcceptedCommandCompletes : Prop :=
  ∀ (s : State) (i : Instr), s.status.busy = false → i ≠ .nop →
    ∃ t k, exec i s = .next t ∧
      (i = .encode → k = if encodeValid s.regs then (s.regs.repeatCount.toNat + 1) * (2 * s.regs.argNbits.toNat + 4) + 1 else 1) ∧
      (i ≠ .encode → k = 1) ∧
      (∀ j < k, (coreSteps j t).seq ≠ .idle ∧ (coreSteps j t).status.busy = true ∧
        (coreSteps j t).status.doneFlag = false ∧ (coreSteps j t).status.success = false ∧
        (coreSteps j t).status.err = .none) ∧
      (coreSteps k t).seq = .idle ∧ (coreSteps k t).status.busy = false ∧ (coreSteps k t).status.doneFlag = true

/-! ### The matcher -/

/-- R112 (with R110): MATCH is accepted, and its one core step completes with the match result and changes nothing else. -/
def Obligations.MatchReportsWindow : Prop :=
  ∀ s : State, s.status.busy = false →
    ∃ t, exec .matchTol s = .next t ∧
      coreStep t =
        { s with
          status := s.status.completed
            (decide (100 * ((s.regs.meas.toNat : Int) - s.regs.nom.toNat).natAbs ≤
              s.regs.nom.toNat * s.regs.tolPct.toNat + 100 * s.regs.tolAbs.toNat)) .none
          seq := .idle }

/-- R113: the laws of `Match`. -/
def Obligations.MatchLaws : Prop :=
  (∀ tp ta n, matchNat tp ta n n = true) ∧
    (∀ tp ta tp' ta' m n, tp ≤ tp' → ta ≤ ta' → matchNat tp ta m n = true → matchNat tp' ta' m n = true) ∧
    (∀ tp ta n k, k ≤ n → matchNat tp ta (n + k) n = matchNat tp ta (n - k) n) ∧
    (∀ tp ta n, n * tp % 100 = 0 → matchNat tp ta (n + n * tp / 100 + ta) n = true ∧
      matchNat tp ta (n + n * tp / 100 + ta + 1) n = false) ∧
    (∀ tp ta m n, matchNat tp ta m n = true ↔
      n - (n * tp + 100 * ta) / 100 ≤ m ∧ m ≤ n + (n * tp + 100 * ta) / 100) ∧
    (∀ tp ta m n, matchNat tp ta m n = true → atLeastNat tp ta m n = true) ∧
    (∀ (r : Operands) (m n : Word), r.matches m n = matchNat r.tolPct.toNat r.tolAbs.toNat m.toNat n.toNat ∧
      r.atLeast m n = atLeastNat r.tolPct.toNat r.tolAbs.toNat m.toNat n.toNat)

/-- R110 and R111: the window, and its lower edge alone, as rational arithmetic gives them; no intermediate value of the
registers' test reaches 2^41. -/
def Obligations.MatchIsTheRationalWindow : Prop :=
  ∀ (r : Operands) (m n : Word),
    (r.matches m n = true ↔
      ((n.toNat : ℚ) - n.toNat * r.tolPct.toNat / 100 - r.tolAbs.toNat ≤ m.toNat ∧
        (m.toNat : ℚ) ≤ n.toNat + n.toNat * r.tolPct.toNat / 100 + r.tolAbs.toNat)) ∧
      (r.atLeast m n = true ↔ (n.toNat : ℚ) - n.toNat * r.tolPct.toNat / 100 - r.tolAbs.toNat ≤ m.toNat) ∧
      n.toNat * r.tolPct.toNat + 100 * r.tolAbs.toNat < 2 ^ 41

/-- R114: the corner cases of `Match` and `AtLeast`. -/
def Obligations.MatchCornerCases : Prop :=
  (∀ tp ta m, matchNat tp ta m 0 = true ↔ m ≤ ta) ∧
    (∀ tp ta m n, 100 ≤ tp → m ≤ 2 * n + ta → matchNat tp ta m n = true) ∧
    (∀ tp ta n, matchNat tp ta 0 n = true ↔ 100 * n ≤ n * tp + 100 * ta) ∧
    (∀ tp ta, matchNat tp ta 0xFFFFFFFF 0xFFFFFFFF = true) ∧
    matchNat 100 0 0 0xFFFFFFFF = true ∧
    (∀ tp ta m, atLeastNat tp ta m 0 = true) ∧
    (∀ tp ta m g, g ≤ m → atLeastNat tp ta m g = true)

/-! ### The encoder -/

/-- R81: every segment of `Frame(n, v)`. -/
def Obligations.FrameLayout : Prop :=
  ∀ (r : Operands) (n : Nat) (v : BitVec 64),
    (frame r n v).length = 2 * n + 4 ∧
      (frame r n v)[0]? = some ⟨.mark, r.hdrMark⟩ ∧ (frame r n v)[1]? = some ⟨.space, r.hdrSpace⟩ ∧
      (∀ i < n, (frame r n v)[2 + 2 * (n - 1 - i)]? = some ⟨.mark, r.bitMark⟩ ∧
        (frame r n v)[3 + 2 * (n - 1 - i)]? = some ⟨.space, if v.getLsbD i then r.oneSpace else r.zeroSpace⟩) ∧
      (frame r n v)[2 * n + 2]? = some ⟨.mark, r.ftrMark⟩ ∧ (frame r n v)[2 * n + 3]? = some ⟨.space, r.minGap⟩

/-- R82: `EncodeSeq` is REPEAT+1 copies of the frame, N segments. -/
def Obligations.EncodeSeqRepeatsFrame : Prop :=
  ∀ r : Operands,
    (encodeSeq r).length = (r.repeatCount.toNat + 1) * (2 * r.argNbits.toNat + 4) ∧
      (r.argNbits.toNat ≤ 64 → (encodeSeq r).length ≤ 65536 * 132) ∧
      ∀ k < (r.repeatCount.toNat + 1) * (2 * r.argNbits.toNat + 4),
        (encodeSeq r)[k]? = (frame r r.argNbits.toNat r.payload)[k % (2 * r.argNbits.toNat + 4)]?

/-- R80 and R83: ENCODE from acceptance to completion, valid or not: every prefix of the emission, and the end. -/
def Obligations.EncodeEmitsWholeSequence : Prop :=
  ∀ s : State, s.status.busy = false →
    ∃ t, exec .encode s = .next t ∧
      ((s.regs.argNbits.toNat ≤ 64 ∧ s.regs.khz ≠ 0 ∧ 1 ≤ s.regs.dutyPct.toNat ∧ s.regs.dutyPct.toNat ≤ 100) →
        (∀ k ≤ (s.regs.repeatCount.toNat + 1) * (2 * s.regs.argNbits.toNat + 4),
          coreSteps k t = { t with txlog := s.txlog ++ (encodeSeq s.regs).take k, txSegs := BitVec.ofNat 32 k }) ∧
        coreSteps ((s.regs.repeatCount.toNat + 1) * (2 * s.regs.argNbits.toNat + 4) + 1) t =
          { s with
            status := s.status.completed true .none, seq := .idle
            txlog := s.txlog ++ encodeSeq s.regs
            txSegs := BitVec.ofNat 32 ((s.regs.repeatCount.toNat + 1) * (2 * s.regs.argNbits.toNat + 4)) }) ∧
      (¬ (s.regs.argNbits.toNat ≤ 64 ∧ s.regs.khz ≠ 0 ∧ 1 ≤ s.regs.dutyPct.toNat ∧ s.regs.dutyPct.toNat ≤ 100) →
        coreStep t = { s with status := s.status.completed false .configError, seq := .idle, txSegs := 0 })

/-- R85: the payload is silently truncated to its low n bits, with no error and no flag. -/
def Obligations.PayloadTruncatedSilently : Prop :=
  (∀ (r : Operands) (n : Nat) (v : BitVec 64), n ≤ 64 → frame r n v = frame r n (BitVec.ofNat 64 (v.toNat % 2 ^ n))) ∧
    (∀ (r : Operands) (lo hi : Word), encodeValid { r with payloadLo := lo, payloadHi := hi } = encodeValid r)

/-- R86: n = 0 and n = 64 are legal, 65 to 255 are a ConfigError. -/
def Obligations.BitCountLimits : Prop :=
  (∀ (r : Operands) (v : BitVec 64), frame r 0 v =
      [⟨.mark, r.hdrMark⟩, ⟨.space, r.hdrSpace⟩, ⟨.mark, r.ftrMark⟩, ⟨.space, r.minGap⟩]) ∧
    (∀ (r : Operands) (v w : BitVec 64), r.oneSpace ≠ r.zeroSpace → frame r 64 v = frame r 64 w → v = w) ∧
    (∀ r : Operands, r.khz ≠ 0 → 1 ≤ r.dutyPct.toNat → r.dutyPct.toNat ≤ 100 →
      (encodeValid r = true ↔ r.argNbits.toNat ≤ 64)) ∧
    (∀ s : State, s.seq = .runEncode → s.txSegs = 0 → 64 < s.regs.argNbits.toNat →
      coreStep s = { s with status := s.status.completed false .configError, seq := .idle })

/-- R148: T_encode is the sum of the durations of the whole sequence. -/
def Obligations.EncodeTimeIsSumOfDurations : Prop :=
  ∀ r : Operands, totalDuration (encodeSeq r) = encodeTime r (popcountLow r.payload r.argNbits.toNat)

/-- R84 and R136: `ir_tx` carries the segment an emission step has begun, and is off when no ENCODE runs; the carrier is on
exactly for a mark of nonzero duration. That the line is read from SEQ, TX_SEGS and TXLOG, and that a mark of duration 0 has
no carrier, are DEDUCED (log entry 13). -/
def Obligations.LineFollowsEmission : Prop :=
  (∀ s : State, s.seq ≠ .runEncode → s.irTx = none ∧ s.carrierOn = false) ∧
    (∀ s : State, s.seq = .runEncode → (s.txSegs ≠ 0 ∨ encodeValid s.regs = true) →
      s.txSegs.toNat < segmentCount s.regs →
        (coreStep s).irTx = (encodeSeq s.regs)[s.txSegs.toNat]? ∧
          ∀ g, (encodeSeq s.regs)[s.txSegs.toNat]? = some g →
            (coreStep s).txlog = s.txlog ++ [g] ∧ (coreStep s).txSegs = s.txSegs + 1 ∧
              ((coreStep s).carrierOn = true ↔ g.level = .mark ∧ g.dur ≠ 0))

/-! ### The decoder -/

/-- R91: the strict check comes first and reads nothing else; without STRICT, DESC_NBITS is not read. -/
def Obligations.StrictCheckComesFirst : Prop :=
  (∀ (s : State) (gapreq : Bool), s.status.busy = false → s.regs.argNbits ≠ s.regs.descNbits →
      ∃ t, exec (.decode true gapreq) s = .next t ∧ coreStep t = s.decodeFailed .strictLengthMismatch s.draws) ∧
    (∀ (s : State) (gapreq : Bool) (d : BitVec 8), s.seq = .runDecode false gapreq →
      coreStep { s with regs := { s.regs with descNbits := d } } =
        { coreStep s with regs := { s.regs with descNbits := d } })

/-- R92: more than 64 bits are a ConfigError, once the strict check has passed, and BUF is not read. -/
def Obligations.TooManyBitsIsConfigError : Prop :=
  ∀ (s : State) (strict gapreq : Bool), s.status.busy = false → (strict = true → s.regs.argNbits = s.regs.descNbits) →
    64 < s.regs.argNbits.toNat →
      ∃ t, exec (.decode strict gapreq) s = .next t ∧ coreStep t = s.decodeFailed .configError s.draws

/-- R93: a buffer too short for the frame, or for the required gap entry, is a ShortBuffer, and BUF is not read. -/
def Obligations.ShortBufferFails : Prop :=
  ∀ (s : State) (strict gapreq : Bool), s.status.busy = false → (strict = true → s.regs.argNbits = s.regs.descNbits) →
    s.regs.argNbits.toNat ≤ 64 →
    (s.regs.bufLen.toNat < s.regs.offset.toNat + (2 + 2 * s.regs.argNbits.toNat + 1) ∨
      (gapreq = true ∧ s.regs.bufLen.toNat = s.regs.offset.toNat + (2 + 2 * s.regs.argNbits.toNat + 1))) →
      ∃ t, exec (.decode strict gapreq) s = .next t ∧ coreStep t = s.decodeFailed .shortBuffer s.draws

/-- R94: the header mark is tested first, then the header space; either failing is a HeaderMismatch. -/
def Obligations.HeaderMismatchFails : Prop :=
  ∀ (s : State) (strict gapreq : Bool), s.status.busy = false → s.regs.frameFits strict gapreq →
    (s.regs.matches (s.seen 0) s.regs.hdrMark = false →
      ∃ t, exec (.decode strict gapreq) s = .next t ∧ coreStep t = s.decodeFailed .headerMismatch (s.drawAfter 1)) ∧
    (s.regs.matches (s.seen 0) s.regs.hdrMark = true → s.regs.matches (s.seen 1) s.regs.hdrSpace = false →
      ∃ t, exec (.decode strict gapreq) s = .next t ∧ coreStep t = s.decodeFailed .headerMismatch (s.drawAfter 2))

/-- R95 and R96, failures: the first data bit whose mark fails, or whose space matches neither, is a BitMismatch, and no later
entry is read. -/
def Obligations.BitMismatchFails : Prop :=
  ∀ (s : State) (strict gapreq : Bool) (k : Nat), s.status.busy = false → s.regs.frameFits strict gapreq →
    s.headerOk → k < s.regs.argNbits.toNat → (∀ j < k, s.bitOk j) →
      (¬ s.bitMarkOk k →
        ∃ t, exec (.decode strict gapreq) s = .next t ∧
          coreStep t = s.decodeFailed .bitMismatch (s.drawAfter (3 + 2 * k))) ∧
      (s.bitMarkOk k → ¬ s.bitSpaceOk k →
        ∃ t, exec (.decode strict gapreq) s = .next t ∧
          coreStep t = s.decodeFailed .bitMismatch (s.drawAfter (4 + 2 * k)))

/-- R97 and R98, failures: a footer mark that fails, or a present gap entry that is too short, is a FooterMismatch. -/
def Obligations.FooterMismatchFails : Prop :=
  ∀ (s : State) (strict gapreq : Bool), s.status.busy = false → s.regs.frameFits strict gapreq →
    s.headerOk → (∀ k < s.regs.argNbits.toNat, s.bitOk k) →
      (s.regs.matches (s.seen (2 + 2 * s.regs.argNbits.toNat)) s.regs.ftrMark = false →
        ∃ t, exec (.decode strict gapreq) s = .next t ∧
          coreStep t = s.decodeFailed .footerMismatch (s.drawAfter (3 + 2 * s.regs.argNbits.toNat))) ∧
      (s.regs.matches (s.seen (2 + 2 * s.regs.argNbits.toNat)) s.regs.ftrMark = true →
        s.regs.offset.toNat + 3 + 2 * s.regs.argNbits.toNat < s.regs.bufLen.toNat →
        s.regs.atLeast (s.seen (3 + 2 * s.regs.argNbits.toNat)) s.regs.minGap = false →
        ∃ t, exec (.decode strict gapreq) s = .next t ∧
          coreStep t = s.decodeFailed .footerMismatch (s.drawAfter (4 + 2 * s.regs.argNbits.toNat)))

/-- R96 to R99, success: when every check passes, DECODE reports the value, whose bit n-1-k is 1 exactly when the space of data
bit k matches ONE_SPACE, the bit count, the tag and 2 + 2n + 1; an absent gap counts as satisfied when it is not required.
The draw counter is the model's own (log entry 5). -/
def Obligations.DecodeReportsValue : Prop :=
  ∀ (s : State) (strict gapreq : Bool), s.status.busy = false → s.regs.frameFits strict gapreq →
    s.headerOk → (∀ k < s.regs.argNbits.toNat, s.bitOk k) →
    s.regs.matches (s.seen (2 + 2 * s.regs.argNbits.toNat)) s.regs.ftrMark = true →
    (s.regs.offset.toNat + 3 + 2 * s.regs.argNbits.toNat < s.regs.bufLen.toNat →
      s.regs.atLeast (s.seen (3 + 2 * s.regs.argNbits.toNat)) s.regs.minGap = true) →
      ∃ (t : State) (v : BitVec 64), exec (.decode strict gapreq) s = .next t ∧
        v.toNat < 2 ^ s.regs.argNbits.toNat ∧
        (∀ k < s.regs.argNbits.toNat, v.getLsbD (s.regs.argNbits.toNat - 1 - k) =
          s.regs.matches (s.seen (3 + 2 * k)) s.regs.oneSpace) ∧
        coreStep t =
          { s with
            status := s.status.completed true .none, seq := .idle
            res := { valueLo := BitVec.ofNat 32 v.toNat, valueHi := BitVec.ofNat 32 (v.toNat / 2 ^ 32)
                     nbits := s.regs.argNbits, tag := s.regs.protoTag
                     consumed := BitVec.ofNat 8 (2 + 2 * s.regs.argNbits.toNat + 1) }
            draws := if s.regs.offset.toNat + 3 + 2 * s.regs.argNbits.toNat < s.regs.bufLen.toNat
              then s.drawAfter (4 + 2 * s.regs.argNbits.toNat) else s.drawAfter (3 + 2 * s.regs.argNbits.toNat) }

/-- R100 and R122: a DECODE that completes without success leaves 0 in all five result registers and an error code; with success
it leaves ERR 0. -/
def Obligations.FailedDecodeLeavesZeros : Prop :=
  ∀ (s : State) (strict gapreq : Bool), s.seq = .runDecode strict gapreq →
    ((coreStep s).status.success = false →
      (coreStep s).res = { valueLo := 0, valueHi := 0, nbits := 0, tag := 0, consumed := 0 } ∧
        (coreStep s).status.err ≠ .none) ∧
      ((coreStep s).status.success = true → (coreStep s).status.err = .none)

/-- R52: DECODE's outcome depends on BUF only through the entries from OFFSET to OFFSET + 2 + 2n + 1 that lie below BUF_LEN. -/
def Obligations.DecodeReadsOnlyFrame : Prop :=
  ∀ (s : State) (strict gapreq : Bool) (m : Memory), s.seq = .runDecode strict gapreq →
    (∀ i, s.regs.offset.toNat ≤ i → i ≤ s.regs.offset.toNat + 2 + 2 * s.regs.argNbits.toNat + 1 →
      i < s.regs.bufLen.toNat → m.entry i = s.buf.entry i) →
      coreStep { s with buf := m } = { coreStep s with buf := m }

/-- R102: the round trip. BUF holds the durations of the frame of PAYLOAD from OFFSET on, with or without its gap; DECODE strict
succeeds for every tolerance and gives PAYLOAD mod 2^n, or all ones when ZERO_SPACE lies in ONE_SPACE's window and so each 0
bit reads as 1. -/
def Obligations.EncodeDecodeRoundTrip : Prop :=
  ∀ (s : State) (gapWritten gapreq : Bool), s.status.busy = false → (gapreq = true → gapWritten = true) →
    s.regs.descNbits = s.regs.argNbits → s.regs.argNbits.toNat ≤ 64 →
    s.regs.bufLen.toNat = s.regs.offset.toNat + 2 * s.regs.argNbits.toNat + (if gapWritten then 4 else 3) →
    (∀ j < 2 * s.regs.argNbits.toNat + (if gapWritten then 4 else 3),
      s.buf.entry (s.regs.offset.toNat + j) =
        ((frame s.regs s.regs.argNbits.toNat s.regs.payload)[j]?).map Segment.dur) →
      ∃ t, exec (.decode true gapreq) s = .next t ∧
        (coreStep t).status = s.status.completed true .none ∧ (coreStep t).seq = .idle ∧
        (coreStep t).res.nbits = s.regs.argNbits ∧ (coreStep t).res.tag = s.regs.protoTag ∧
        (coreStep t).res.consumed.toNat = 2 * s.regs.argNbits.toNat + 3 ∧
        (coreStep t).draws = s.draws ∧
        (coreStep t).res.value.toNat =
          if s.regs.matches s.regs.zeroSpace s.regs.oneSpace then 2 ^ s.regs.argNbits.toNat - 1
          else s.regs.payload.toNat % 2 ^ s.regs.argNbits.toNat

/-- R68, the "reads" column: a core step depends on no operand register outside its command's list. -/
def Obligations.CoreStepReadsListedRegisters : Prop :=
  ∀ (s : State) (r : Operands),
    (s.seq = .runMatch → r.meas = s.regs.meas → r.nom = s.regs.nom → r.tolPct = s.regs.tolPct → r.tolAbs = s.regs.tolAbs →
      coreStep { s with regs := r } = { coreStep s with regs := r }) ∧
    (s.seq = .runEncode → r.hdrMark = s.regs.hdrMark → r.hdrSpace = s.regs.hdrSpace → r.bitMark = s.regs.bitMark →
      r.oneSpace = s.regs.oneSpace → r.zeroSpace = s.regs.zeroSpace → r.ftrMark = s.regs.ftrMark →
      r.minGap = s.regs.minGap → r.carrier = s.regs.carrier → r.repeatCount = s.regs.repeatCount →
      r.argNbits = s.regs.argNbits → r.payload = s.regs.payload →
      coreStep { s with regs := r } = { coreStep s with regs := r }) ∧
    (∀ strict gapreq, s.seq = .runDecode strict gapreq → r.hdrMark = s.regs.hdrMark → r.hdrSpace = s.regs.hdrSpace →
      r.bitMark = s.regs.bitMark → r.oneSpace = s.regs.oneSpace → r.zeroSpace = s.regs.zeroSpace →
      r.ftrMark = s.regs.ftrMark → r.minGap = s.regs.minGap → r.descNbits = s.regs.descNbits →
      r.protoTag = s.regs.protoTag → r.argNbits = s.regs.argNbits → r.offset = s.regs.offset →
      r.bufLen = s.regs.bufLen → r.tolPct = s.regs.tolPct → r.tolAbs = s.regs.tolAbs →
      coreStep { s with regs := r } = { coreStep s with regs := r })

/-! ### The host port -/

/-- R45, R53: a host read of a register (at its literal offset, its field: `State.readMap`) or of a BUF entry, whether BUSY is 0 or 1: the data is returned and nothing else of the
block changes; an entry not written since reset gives a free draw (its counter is the model's own, log entry 5). -/
def Obligations.HostReadsReturnData : Prop :=
  (∀ (s : State) (x : Reg), step (s.push (.host (.read 4 x.off))) = .next { s with reads := s.reads ++ [readReg s x] }) ∧
    (∀ s : State, ∀ p ∈ s.readMap,
      step (s.push (.host (.read 4 p.1))) = .next { s with reads := s.reads ++ [p.2] }) ∧
    (∀ (s : State) (x : Reg), (readReg s x).toNat < 2 ^ x.usedBits) ∧
    (∀ s : State, readReg s .cmd = 0) ∧
    (∀ (s : State) (i : Nat) (w : Word), i < Config.bufDepth → s.buf.entry i = some w →
      step (s.push (.host (.read 4 (0x1000 + 4 * i)))) = .next { s with reads := s.reads ++ [w] }) ∧
    (∀ (s : State) (i : Nat), i < Config.bufDepth → s.buf.entry i = none →
      step (s.push (.host (.read 4 (0x1000 + 4 * i)))) =
        .next { s with reads := s.reads ++ [Config.freeEntry s.draws], draws := s.draws + 1 })

/-- STATUS as one word (10_state.md section 2), bit by bit; the error codes are those of 60_exceptions.md section 1. -/
def Obligations.StatusWordLayout : Prop :=
  (∀ s : State,
      (readReg s .status).getLsbD 0 = s.status.busy ∧ (readReg s .status).getLsbD 1 = s.status.doneFlag ∧
        (readReg s .status).getLsbD 2 = s.status.success ∧ (readReg s .status).getLsbD 3 = false ∧
        (readReg s .status).extractLsb' 4 4 = s.status.err.code ∧
        (readReg s .status).getLsbD 8 = s.status.cmdErr ∧ (readReg s .status).getLsbD 9 = s.status.wErr ∧
        ∀ i, 10 ≤ i → (readReg s .status).getLsbD i = false) ∧
    [ErrCode.none, .shortBuffer, .headerMismatch, .bitMismatch, .footerMismatch, .strictLengthMismatch, .configError].map
        (fun e => e.code.toNat) = [0, 1, 2, 3, 4, 5, 6]

/-- R46, R28, R36: a host write while BUSY is 0, target by target, and each operand register at its literal offset with the
field it stores (`Operands.writeMap`). -/
def Obligations.HostWriteEffects : Prop :=
  ∀ (s : State) (w : Word), s.status.busy = false →
    step (s.push (.host (.write 4 0x000 w))) = submit w s ∧
    step (s.push (.host (.write 4 0x004 w))) = .next { s with status := { s.status with
      doneFlag := if w.getLsbD 1 then false else s.status.doneFlag
      cmdErr := if w.getLsbD 8 then false else s.status.cmdErr
      wErr := if w.getLsbD 9 then false else s.status.wErr } } ∧
    (∃ t, step (s.push (.host (.write 4 0x058 w))) = .next t ∧
      t = { s with regs := { s.regs with bufLen := t.regs.bufLen } } ∧
      (readReg t .bufLen).toNat = min (w.toNat % 2 ^ 17) Config.bufDepth) ∧
    (∀ i < Config.bufDepth, ∃ t, step (s.push (.host (.write 4 (0x1000 + 4 * i) w))) = .next t ∧
      t = { s with buf := t.buf } ∧ t.buf.entry i = some w ∧ t.buf.written i = true ∧
      ∀ j, j ≠ i → t.buf.entry j = s.buf.entry j) ∧
    (∀ x : Reg, x.access = .ro → step (s.push (.host (.write 4 x.off w))) = .next s) ∧
    (∀ x : Reg, x.access = .rw → x ≠ .bufLen → ∃ t, step (s.push (.host (.write 4 x.off w))) = .next t ∧
      t = { s with regs := t.regs, doneIe := t.doneIe } ∧
      (readReg t x).toNat = w.toNat % 2 ^ x.usedBits ∧ ∀ y, y ≠ x → readReg t y = readReg s y) ∧
    (∀ p ∈ s.regs.writeMap w, step (s.push (.host (.write 4 p.1 w))) = .next { s with regs := p.2 }) ∧
    step (s.push (.host (.write 4 0x008 w))) = .next { s with doneIe := w.getLsbD 0 } ∧
    (∀ off ∈ readOnlyOffsets, step (s.push (.host (.write 4 off w))) = .next s)

/-- R47: a host write while BUSY is 1, target by target, and at the registers' literal offsets. -/
def Obligations.BusyWritesDropped : Prop :=
  ∀ (s : State) (w : Word), s.status.busy = true →
    (∀ x : Reg, x.access = .rw → x ≠ .inten →
      step (s.push (.host (.write 4 x.off w))) = .next { s with status := { s.status with wErr := true } }) ∧
    (∀ i < Config.bufDepth,
      step (s.push (.host (.write 4 (0x1000 + 4 * i) w))) = .next { s with status := { s.status with wErr := true } }) ∧
    step (s.push (.host (.write 4 0x004 w))) = .next { s with status := { s.status with
      doneFlag := if w.getLsbD 1 then false else s.status.doneFlag
      cmdErr := if w.getLsbD 8 then false else s.status.cmdErr
      wErr := if w.getLsbD 9 then false else s.status.wErr } } ∧
    step (s.push (.host (.write 4 0x008 w))) = .next { s with doneIe := w.getLsbD 0 } ∧
    (∀ x : Reg, x.access = .ro → step (s.push (.host (.write 4 x.off w))) = .next s) ∧
    (∀ off ∈ operandOffsets,
      step (s.push (.host (.write 4 off w))) = .next { s with status := { s.status with wErr := true } }) ∧
    (∀ off ∈ readOnlyOffsets, step (s.push (.host (.write 4 off w))) = .next s)

/-- R42, R46: the bytes a BUF write stores, in little-endian lanes; every other byte of BUF reads as before.
BUF kept as bytes is the model's choice (log entry 6). -/
def Obligations.BufWriteStoresLanes : Prop :=
  ∀ (s : State) (i : Nat) (w : Word), s.status.busy = false → i < Config.bufDepth →
    ∃ t, step (s.push (.host (.write 4 (0x1000 + 4 * i) w))) = .next t ∧
      (∀ k < 4, t.buf.readByte (0x1000 + 4 * i + k) = some (BitVec.ofNat 8 (w.toNat / 2 ^ (8 * k)))) ∧
      ∀ a, (a < 0x1000 + 4 * i ∨ 0x1000 + 4 * i + 4 ≤ a) → t.buf.readByte a = s.buf.readByte a

/-- A 64-bit payload is two writes, low word at the lower offset, in either order (20_memory.md R42, R48; 70 R149). -/
def Obligations.PayloadIsTwoWrites : Prop :=
  ∀ (s : State) (lo hi : Word), s.status.busy = false →
    ∃ t t' u, step (s.push (.host (.write 4 0x05C lo))) = .next t ∧ step (s.push (.host (.write 4 0x060 hi))) = .next t' ∧
      step (t.push (.host (.write 4 0x060 hi))) = .next u ∧ step (t'.push (.host (.write 4 0x05C lo))) = .next u ∧
      u.regs.payload.toNat = hi.toNat * 2 ^ 32 + lo.toNat ∧
      t.regs.payload.toNat = s.regs.payloadHi.toNat * 2 ^ 32 + lo.toNat

/-- R43 and R125: an access of another width than 4 bytes, or at an address that is no multiple of 4, is a BusError.
That the fault ends the run and that the window is tested first are the model's choices (log entries 7 and 8). -/
def Obligations.BadWidthOrAlignmentIsBusError : Prop :=
  ∀ (s : State) (width off : Nat) (w : Word), off < 0x1000 + 4 * Config.bufDepth →
    (width ≠ 4 ∨ (Config.irptBase + off) % 4 ≠ 0) →
      step (s.push (.host (.read width off))) = .fault (.busError (Config.irptBase + off)) ∧
        step (s.push (.host (.write width off w))) = .fault (.busError (Config.irptBase + off))

/-- R44, inside the window: exactly the unnamed offsets are refused with a BusError. That the fault ends the run is the model's
choice (log entry 7). -/
def Obligations.UnnamedOffsetsAreBusErrors : Prop :=
  ∀ (s : State) (off : Nat) (w : Word), off % 4 = 0 → off < 0x1000 + 4 * Config.bufDepth →
    (((0x014 ≤ off ∧ off ≤ 0x01C) ∨ off = 0x04C ∨ (0x06C ≤ off ∧ off ≤ 0x07C) ∨ (0x098 ≤ off ∧ off ≤ 0xFFC)) →
      step (s.push (.host (.read 4 off))) = .fault (.busError (Config.irptBase + off)) ∧
        step (s.push (.host (.write 4 off w))) = .fault (.busError (Config.irptBase + off))) ∧
    (¬ ((0x014 ≤ off ∧ off ≤ 0x01C) ∨ off = 0x04C ∨ (0x06C ≤ off ∧ off ≤ 0x07C) ∨ (0x098 ≤ off ∧ off ≤ 0xFFC)) →
      ∃ t t', step (s.push (.host (.read 4 off))) = .next t ∧ step (s.push (.host (.write 4 off w))) = .next t')

/-- An access beyond the window is not addressed to the IRPT (20_memory.md R44); the refusal's name is the model's choice (log
entry 8). -/
def Obligations.OutsideWindowNotAddressed : Prop :=
  ∀ (s : State) (width off : Nat) (w : Word), 0x1000 + 4 * Config.bufDepth ≤ off →
    step (s.push (.host (.read width off))) = .refused (.notAddressed (Config.irptBase + off)) ∧
      step (s.push (.host (.write width off w))) = .refused (.notAddressed (Config.irptBase + off))

/-- R125: under the premise "no BusError, and no access outside the window" on the events still to come, no step stops, and the
premise stays true. The event list, the fault and the refusal of an access outside the window are the model's (log entries 3,
7 and 8). -/
def Obligations.SafeHostNeverStops : Prop :=
  ∀ s : State, s.hostSafe = true → ∃ s', step s = .next s' ∧ s'.hostSafe = true

/-! ### Rules of the whole machine -/

/-- R16: CMDERR after a step, exactly. -/
def Obligations.CmdErrIsSticky : Prop :=
  ∀ s s' : State, step s = .next s' →
    (s'.status.cmdErr = true ↔
      (∃ w, s.writesNext 0x000 w ∧ (legal w = false ∨ (w ≠ 0 ∧ s.status.busy = true))) ∨
        (s.status.cmdErr = true ∧ s.inputs.head? ≠ some .reset ∧ ∀ w, s.writesNext 0x004 w → w.getLsbD 8 = false))

/-- R17: WERR after a step, exactly. -/
def Obligations.WErrIsSticky : Prop :=
  ∀ s s' : State, step s = .next s' →
    (s'.status.wErr = true ↔
      (s.status.busy = true ∧
        ((∃ (x : Reg) (w : Word), x.access = .rw ∧ x ≠ .inten ∧ s.writesNext x.off w) ∨
          ∃ (i : Nat) (w : Word), i < Config.bufDepth ∧ s.writesNext (0x1000 + 4 * i) w)) ∨
        (s.status.wErr = true ∧ s.inputs.head? ≠ some .reset ∧ ∀ w, s.writesNext 0x004 w → w.getLsbD 9 = false))

/-- R13: DONE after a step, exactly. -/
def Obligations.DoneSetByCompletion : Prop :=
  ∀ s s' : State, step s = .next s' →
    (s'.status.doneFlag = true ↔
      completes s s' ∨
        (s.status.doneFlag = true ∧ s.inputs.head? ≠ some .reset ∧ ¬ s.acceptsNext ∧
          ∀ w, s.writesNext 0x004 w → w.getLsbD 1 = false))

/-- R14 and R15: SUCCESS and ERR change only by completion, acceptance and reset; acceptance sets both to 0; MATCH completes
without error, ENCODE with none or ConfigError, and an error means SUCCESS 0. -/
def Obligations.OutcomeHeldUntilAcceptance : Prop :=
  (∀ s s' : State, step s = .next s' → (s'.status.success ≠ s.status.success ∨ s'.status.err ≠ s.status.err) →
      completes s s' ∨ s.acceptsNext ∨ s.inputs.head? = some .reset) ∧
    (∀ s s' : State, step s = .next s' → s.acceptsNext → s'.status.success = false ∧ s'.status.err = .none) ∧
    (∀ s s' : State, step s = .next s' → completes s s' →
      (s.seq = .runMatch → s'.status.err = .none) ∧
        (s.seq = .runEncode → s'.status.success = true ∧ s'.status.err = .none ∨
          s'.status.success = false ∧ s'.status.err = .configError))

/-- R34 and R76: SEQ leaves IDLE only by acceptance, and a running command ends only by its completion or reset; no host
access aborts, changes or cancels it. -/
def Obligations.OnlyCompletionEndsCommand : Prop :=
  ∀ s s' : State, Inv s → step s = .next s' →
    (s.seq = .idle → s'.seq ≠ .idle → s.acceptsNext ∧ s'.status.busy = true) ∧
      (s.seq ≠ .idle → s'.seq = s.seq ∨
        (s'.seq = .idle ∧ s.coreTurn ∧ s'.status.busy = false ∧ s'.status.doneFlag = true) ∨
        s.inputs.head? = some .reset)

/-- R47, R68: while BUSY is 1 no step but reset changes an operand register or a byte of BUF. -/
def Obligations.BusyFreezesOperands : Prop :=
  ∀ s s' : State, step s = .next s' → s.status.busy = true → s.inputs.head? ≠ some .reset →
    s'.regs = s.regs ∧ ∀ a, s'.buf.readByte a = s.buf.readByte a

/-- R30: only a host write of a BUF entry while BUSY is 0, or reset, changes BUF. -/
def Obligations.OnlyHostWritesBuf : Prop :=
  ∀ s s' : State, step s = .next s' → s'.buf ≠ s.buf →
    s.inputs.head? = some .reset ∨
      (s.status.busy = false ∧ ∃ (i : Nat) (w : Word), i < Config.bufDepth ∧ s.writesNext (0x1000 + 4 * i) w)

/-- R32: only the completion of a DECODE, or reset, changes the result registers. -/
def Obligations.OnlyDecodeWritesResults : Prop :=
  ∀ s s' : State, step s = .next s' → s'.res ≠ s.res →
    (completes s s' ∧ ∃ strict gapreq, s.seq = .runDecode strict gapreq) ∨ s.inputs.head? = some .reset

/-- R33: acceptance of an ENCODE sets TX_SEGS to 0 and leaves TXLOG; an emission step adds 1 and appends the segment it begins;
reset gives 0 and the empty log; every other step, those of MATCH and DECODE among them, leaves both. -/
def Obligations.TxLogGrowsByEmission : Prop :=
  ∀ s s' : State, step s = .next s' →
    (s.writesNext 0x000 0x00000002#32 → s.status.busy = false → s'.txSegs = 0 ∧ s'.txlog = s.txlog) ∧
      (s.coreTurn → s.seq = .runEncode → s.emitsNext → s'.seq = .runEncode ∧ s'.txSegs = s.txSegs + 1 ∧
        ∃ g, (encodeSeq s.regs)[s.txSegs.toNat]? = some g ∧ s'.txlog = s.txlog ++ [g]) ∧
      (s.inputs.head? = some .reset → s'.txSegs = 0 ∧ s'.txlog = []) ∧
      (¬ (s.writesNext 0x000 0x00000002#32 ∧ s.status.busy = false) →
        ¬ (s.coreTurn ∧ s.seq = .runEncode ∧ s.emitsNext) → s.inputs.head? ≠ some .reset →
        s'.txSegs = s.txSegs ∧ s'.txlog = s.txlog)

/-- R35, R127, R128: a completion with DONE_IE set raises `irq`, and the W1C write, an acceptance and reset each clear it; it rises
only by such a completion or by enabling it while DONE is 1, and falls only by the W1C write, the next acceptance, disabling it,
or reset. -/
def Obligations.InterruptFollowsDone : Prop :=
  ∀ s s' : State, step s = .next s' →
    (s'.irq = true ↔ s'.status.doneFlag = true ∧ s'.doneIe = true) ∧
      (s.irq = false → s'.irq = true →
        (completes s s' ∧ s.doneIe = true) ∨
          (s.status.doneFlag = true ∧ ∃ w, s.writesNext 0x008 w ∧ w.getLsbD 0 = true)) ∧
      (s.irq = true → s'.irq = false →
        (∃ w, s.writesNext 0x004 w ∧ w.getLsbD 1 = true) ∨ s.acceptsNext ∨
          (∃ w, s.writesNext 0x008 w ∧ w.getLsbD 0 = false) ∨ s.inputs.head? = some .reset) ∧
      (completes s s' → s.doneIe = true → s'.irq = true) ∧
      (∀ w, s.writesNext 0x008 w → s'.irq = (s.status.doneFlag && w.getLsbD 0)) ∧
      (∀ w, s.writesNext 0x004 w → w.getLsbD 1 = true → s'.irq = false) ∧
      (s.acceptsNext → s'.irq = false) ∧
      (s.inputs.head? = some .reset → s'.irq = false)

/-- R49, for every interleaving: a host step between two core steps does not disturb the running command. A read of an entry
not written since reset takes a draw of its own, so the statement is for a host step that takes none (the draw counter is the model's
own, log entry 5). -/
def Obligations.HostStepsDoNotDisturbCommand : Prop :=
  ∀ (s s' : State) (a : Access), s.status.busy = true → s.inputs.head? = some (.host a) → step s = .next s' →
    s'.draws = s.draws →
      (coreStep s').regs = (coreStep s).regs ∧ (coreStep s').buf = (coreStep s).buf ∧
        (coreStep s').res = (coreStep s).res ∧ (coreStep s').txSegs = (coreStep s).txSegs ∧
        (coreStep s').txlog = (coreStep s).txlog ∧ (coreStep s').seq = (coreStep s).seq ∧
        (coreStep s').status.busy = (coreStep s).status.busy ∧
        ((coreStep s).seq = .idle → s.seq ≠ .idle →
          (coreStep s').status.success = (coreStep s).status.success ∧
            (coreStep s').status.err = (coreStep s).status.err ∧ (coreStep s').status.doneFlag = true)

/-! ### The invariant -/

/-- The invariant holds at reset. -/
def Obligations.ResetMeetsInvariant : Prop := Inv State.reset

/-- Every step keeps the invariant: BUF's canonical form, SEQ and BUSY, BUF_LEN within BUF_DEPTH, the flags of a running
command, no partial results, and TXLOG following EncodeSeq. BUF's canonical byte form is the model's (log entry 6). -/
def Obligations.EveryStepKeepsInvariant : Prop := ∀ s s' : State, Inv s → step s = .next s' → Inv s'

/-! ### The register map -/

/-- The register map of 10_state.md section 1: every register once, with its literal offset, its number of used bits and its
access; and the fields that are parts or pairs of registers: KHZ and DUTY_PCT in CARRIER, PAYLOAD, RES_VALUE. -/
def Obligations.RegisterMapLayout : Prop :=
  allRegs.map (fun x => (x, x.off, x.usedBits, x.access)) =
      [(.cmd, 0x000, 32, .wo), (.status, 0x004, 10, .w1c), (.inten, 0x008, 1, .rw), (.tolPct, 0x00C, 8, .rw),
       (.tolAbs, 0x010, 32, .rw), (.hdrMark, 0x020, 32, .rw), (.hdrSpace, 0x024, 32, .rw), (.bitMark, 0x028, 32, .rw),
       (.oneSpace, 0x02C, 32, .rw), (.zeroSpace, 0x030, 32, .rw), (.ftrMark, 0x034, 32, .rw), (.minGap, 0x038, 32, .rw),
       (.carrier, 0x03C, 24, .rw), (.descNbits, 0x040, 8, .rw), (.repeatCount, 0x044, 16, .rw), (.protoTag, 0x048, 16, .rw),
       (.argNbits, 0x050, 8, .rw), (.offset, 0x054, 16, .rw), (.bufLen, 0x058, 17, .rw), (.payloadLo, 0x05C, 32, .rw),
       (.payloadHi, 0x060, 32, .rw), (.meas, 0x064, 32, .rw), (.nom, 0x068, 32, .rw), (.resValueLo, 0x080, 32, .ro),
       (.resValueHi, 0x084, 32, .ro), (.resNbits, 0x088, 8, .ro), (.resTag, 0x08C, 16, .ro), (.resConsumed, 0x090, 8, .ro),
       (.txSegs, 0x094, 32, .ro)] ∧
    (∀ x : Reg, x ∈ allRegs) ∧
    (∀ r : Operands, r.khz.toNat = r.carrier.toNat % 2 ^ 16 ∧ r.dutyPct.toNat = r.carrier.toNat / 2 ^ 16 ∧
      r.payload.toNat = r.payloadHi.toNat * 2 ^ 32 + r.payloadLo.toNat) ∧
    (∀ r : Results, r.value.toNat = r.valueHi.toNat * 2 ^ 32 + r.valueLo.toNat)
end

