-- ==== Sys2Proof/Laws/Memory.lean ====
section
/-! SUPPORT. The laws of BUF: read after write, and that every operation keeps the canonical form. -/

namespace Sys2Proof.Machine

theorem readByte_writeByte_same (m : Memory) (a : Nat) (b : Byte) : (m.writeByte a b).readByte a = some b := by
  induction m with
  | nil => simp [Memory.writeByte, Memory.readByte]
  | cons c m ih =>
    unfold Memory.writeByte
    split
    · simp [Memory.readByte]
    · split
      · simp [Memory.readByte]
      · have : c.1 ≠ a := by omega
        simp [Memory.readByte, this, ih]

theorem readByte_writeByte_ne (m : Memory) {a x : Nat} (b : Byte) (h : x ≠ a) :
    (m.writeByte a b).readByte x = m.readByte x := by
  induction m with
  | nil => simp [Memory.writeByte, Memory.readByte, h.symm]
  | cons c m ih =>
    unfold Memory.writeByte
    split
    · simp [Memory.readByte, h.symm]
    · split
      · rename_i ha
        subst ha
        simp [Memory.readByte, h.symm]
      · simp [Memory.readByte, ih]

theorem mem_writeByte {m : Memory} {a : Nat} {b : Byte} {c : Host.Cell} (h : c ∈ m.writeByte a b) :
    c = (a, b) ∨ c ∈ m := by
  induction m with
  | nil => simpa [Memory.writeByte] using h
  | cons d m ih =>
    unfold Memory.writeByte at h
    split at h
    · simpa using h
    · split at h
      · rcases List.mem_cons.mp h with rfl | h
        · exact .inl rfl
        · exact .inr (List.mem_cons_of_mem _ h)
      · rcases List.mem_cons.mp h with rfl | h
        · exact .inr (by simp)
        · exact (ih h).imp id (List.mem_cons_of_mem _)

theorem writeByte_wf {m : Memory} (h : m.wf) (a : Nat) (b : Byte) : (m.writeByte a b).wf := by
  refine ⟨?_, fun c _ => by simp [unlisted]⟩
  have hp := h.1
  clear h
  induction m with
  | nil => simp [Memory.writeByte]
  | cons d m ih =>
    rw [List.pairwise_cons] at hp
    unfold Memory.writeByte
    split
    · rename_i hlt
      refine List.pairwise_cons.mpr ⟨fun c hc => ?_, List.pairwise_cons.mpr hp⟩
      rcases List.mem_cons.mp hc with rfl | hc
      · exact hlt
      · exact lt_trans hlt (hp.1 c hc)
    · split
      · rename_i heq
        subst heq
        exact List.pairwise_cons.mpr hp
      · refine List.pairwise_cons.mpr ⟨fun c hc => ?_, ih hp.2⟩
        rcases mem_writeByte hc with rfl | hc
        · show d.1 < a
          omega
        · exact hp.1 c hc

theorem setEntry_wf {m : Memory} (h : m.wf) (i : Nat) (w : Word) : (m.setEntry i w).wf :=
  writeByte_wf (writeByte_wf (writeByte_wf (writeByte_wf h _ _) _ _) _ _) _ _

theorem wordOfLanes_laneOf (w : Word) : wordOfLanes (laneOf w 0) (laneOf w 1) (laneOf w 2) (laneOf w 3) = w := by
  apply BitVec.eq_of_getLsbD_eq
  intro i hi
  simp only [wordOfLanes, laneOf, BitVec.getLsbD_append, BitVec.getLsbD_extractLsb']
  have : i < 32 := hi
  split_ifs with h1 h2 h3
  · simp [h1]
  · simp [h2, show 8 + (i - 8) = i by omega]
  · simp [h3, show 16 + (i - 8 - 8) = i by omega]
  · simp [show i - 8 - 8 - 8 < 8 by omega, show 24 + (i - 8 - 8 - 8) = i by omega]


/-- The bytes of a stored entry, lane by lane; every other byte as before (20_memory.md R42, R46). -/
theorem readByte_setEntry (m : Memory) (i : Nat) (w : Word) (a : Nat) :
    (m.setEntry i w).readByte a =
      if a = entryOff i + 3 then some (laneOf w 3) else if a = entryOff i + 2 then some (laneOf w 2)
      else if a = entryOff i + 1 then some (laneOf w 1) else if a = entryOff i then some (laneOf w 0)
      else m.readByte a := by
  unfold Memory.setEntry
  by_cases h3 : a = entryOff i + 3
  · rw [if_pos h3, h3, readByte_writeByte_same]
  rw [if_neg h3, readByte_writeByte_ne _ _ h3]
  by_cases h2 : a = entryOff i + 2
  · rw [if_pos h2, h2, readByte_writeByte_same]
  rw [if_neg h2, readByte_writeByte_ne _ _ h2]
  by_cases h1 : a = entryOff i + 1
  · rw [if_pos h1, h1, readByte_writeByte_same]
  rw [if_neg h1, readByte_writeByte_ne _ _ h1]
  by_cases h0 : a = entryOff i
  · rw [if_pos h0, h0, readByte_writeByte_same]
  rw [if_neg h0, readByte_writeByte_ne _ _ h0]

@[simp] theorem entry_setEntry_same (m : Memory) (i : Nat) (w : Word) : (m.setEntry i w).entry i = some w := by
  simp [Memory.entry, readByte_setEntry, wordOfLanes_laneOf]

theorem entry_setEntry_ne (m : Memory) {i j : Nat} (w : Word) (h : j ≠ i) :
    (m.setEntry i w).entry j = m.entry j := by
  have apart : entryOff j + 4 ≤ entryOff i ∨ entryOff i + 4 ≤ entryOff j := by
    unfold entryOff
    omega
  have e : ∀ k < 4, (m.setEntry i w).readByte (entryOff j + k) = m.readByte (entryOff j + k) := by
    intro k hk
    rw [readByte_setEntry]
    iterate 4 rw [if_neg (by omega)]
  have e0 := e 0 (by omega)
  rw [Nat.add_zero] at e0
  simp only [Memory.entry, e0, e 1 (by omega), e 2 (by omega), e 3 (by omega)]

/-- A read of BUF[i] (20_memory.md R53): the stored word and no draw, or the next free draw. -/
theorem readEntry_cases (m : Memory) (i draw : Nat) :
    (∃ w, m.entry i = some w ∧ m.readEntry i draw = (w, draw)) ∨
      (m.entry i = none ∧ m.readEntry i draw = (Config.freeEntry draw, draw + 1)) := by
  unfold Memory.readEntry
  cases h : m.entry i with
  | none => exact .inr ⟨rfl, rfl⟩
  | some w => exact .inl ⟨w, rfl, rfl⟩

theorem readEntry_of_some {m : Memory} {i : Nat} {w : Word} (h : m.entry i = some w) (draw : Nat) :
    m.readEntry i draw = (w, draw) := by simp [Memory.readEntry, h]

theorem readEntry_of_none {m : Memory} {i : Nat} (h : m.entry i = none) (draw : Nat) :
    m.readEntry i draw = (Config.freeEntry draw, draw + 1) := by simp [Memory.readEntry, h]

end Sys2Proof.Machine
end

