-- ==== Sys2Proof/Laws/State.lean ====
section
/-! SUPPORT. One lemma per field per named update of State, each true by rfl, so that no later proof unfolds an update. -/

namespace Sys2Proof.Machine

@[simp] theorem clearStatus_doneIe (w : Word) (s : State) : (clearStatus w s).doneIe = s.doneIe := rfl
@[simp] theorem clearStatus_regs (w : Word) (s : State) : (clearStatus w s).regs = s.regs := rfl
@[simp] theorem clearStatus_buf (w : Word) (s : State) : (clearStatus w s).buf = s.buf := rfl
@[simp] theorem clearStatus_res (w : Word) (s : State) : (clearStatus w s).res = s.res := rfl
@[simp] theorem clearStatus_txSegs (w : Word) (s : State) : (clearStatus w s).txSegs = s.txSegs := rfl
@[simp] theorem clearStatus_seq (w : Word) (s : State) : (clearStatus w s).seq = s.seq := rfl
@[simp] theorem clearStatus_txlog (w : Word) (s : State) : (clearStatus w s).txlog = s.txlog := rfl
@[simp] theorem clearStatus_inputs (w : Word) (s : State) : (clearStatus w s).inputs = s.inputs := rfl
@[simp] theorem clearStatus_reads (w : Word) (s : State) : (clearStatus w s).reads = s.reads := rfl
@[simp] theorem clearStatus_draws (w : Word) (s : State) : (clearStatus w s).draws = s.draws := rfl
@[simp] theorem clearStatus_status_busy (w : Word) (s : State) : (clearStatus w s).status.busy = s.status.busy := rfl
@[simp] theorem clearStatus_status_doneFlag (w : Word) (s : State) : (clearStatus w s).status.doneFlag = (s.status.doneFlag && !w.getLsbD 1) := rfl
@[simp] theorem clearStatus_status_success (w : Word) (s : State) : (clearStatus w s).status.success = s.status.success := rfl
@[simp] theorem clearStatus_status_err (w : Word) (s : State) : (clearStatus w s).status.err = s.status.err := rfl
@[simp] theorem clearStatus_status_cmdErr (w : Word) (s : State) : (clearStatus w s).status.cmdErr = (s.status.cmdErr && !w.getLsbD 8) := rfl
@[simp] theorem clearStatus_status_wErr (w : Word) (s : State) : (clearStatus w s).status.wErr = (s.status.wErr && !w.getLsbD 9) := rfl

@[simp] theorem refuseCommand_doneIe (s : State) : (refuseCommand s).doneIe = s.doneIe := rfl
@[simp] theorem refuseCommand_regs (s : State) : (refuseCommand s).regs = s.regs := rfl
@[simp] theorem refuseCommand_buf (s : State) : (refuseCommand s).buf = s.buf := rfl
@[simp] theorem refuseCommand_res (s : State) : (refuseCommand s).res = s.res := rfl
@[simp] theorem refuseCommand_txSegs (s : State) : (refuseCommand s).txSegs = s.txSegs := rfl
@[simp] theorem refuseCommand_seq (s : State) : (refuseCommand s).seq = s.seq := rfl
@[simp] theorem refuseCommand_txlog (s : State) : (refuseCommand s).txlog = s.txlog := rfl
@[simp] theorem refuseCommand_inputs (s : State) : (refuseCommand s).inputs = s.inputs := rfl
@[simp] theorem refuseCommand_reads (s : State) : (refuseCommand s).reads = s.reads := rfl
@[simp] theorem refuseCommand_draws (s : State) : (refuseCommand s).draws = s.draws := rfl
@[simp] theorem refuseCommand_status_busy (s : State) : (refuseCommand s).status.busy = s.status.busy := rfl
@[simp] theorem refuseCommand_status_doneFlag (s : State) : (refuseCommand s).status.doneFlag = s.status.doneFlag := rfl
@[simp] theorem refuseCommand_status_success (s : State) : (refuseCommand s).status.success = s.status.success := rfl
@[simp] theorem refuseCommand_status_err (s : State) : (refuseCommand s).status.err = s.status.err := rfl
@[simp] theorem refuseCommand_status_cmdErr (s : State) : (refuseCommand s).status.cmdErr = true := rfl
@[simp] theorem refuseCommand_status_wErr (s : State) : (refuseCommand s).status.wErr = s.status.wErr := rfl

@[simp] theorem dropWrite_doneIe (s : State) : (dropWrite s).doneIe = s.doneIe := rfl
@[simp] theorem dropWrite_regs (s : State) : (dropWrite s).regs = s.regs := rfl
@[simp] theorem dropWrite_buf (s : State) : (dropWrite s).buf = s.buf := rfl
@[simp] theorem dropWrite_res (s : State) : (dropWrite s).res = s.res := rfl
@[simp] theorem dropWrite_txSegs (s : State) : (dropWrite s).txSegs = s.txSegs := rfl
@[simp] theorem dropWrite_seq (s : State) : (dropWrite s).seq = s.seq := rfl
@[simp] theorem dropWrite_txlog (s : State) : (dropWrite s).txlog = s.txlog := rfl
@[simp] theorem dropWrite_inputs (s : State) : (dropWrite s).inputs = s.inputs := rfl
@[simp] theorem dropWrite_reads (s : State) : (dropWrite s).reads = s.reads := rfl
@[simp] theorem dropWrite_draws (s : State) : (dropWrite s).draws = s.draws := rfl
@[simp] theorem dropWrite_status_busy (s : State) : (dropWrite s).status.busy = s.status.busy := rfl
@[simp] theorem dropWrite_status_doneFlag (s : State) : (dropWrite s).status.doneFlag = s.status.doneFlag := rfl
@[simp] theorem dropWrite_status_success (s : State) : (dropWrite s).status.success = s.status.success := rfl
@[simp] theorem dropWrite_status_err (s : State) : (dropWrite s).status.err = s.status.err := rfl
@[simp] theorem dropWrite_status_cmdErr (s : State) : (dropWrite s).status.cmdErr = s.status.cmdErr := rfl
@[simp] theorem dropWrite_status_wErr (s : State) : (dropWrite s).status.wErr = true := rfl

@[simp] theorem accept_doneIe (q : Sequencer) (s : State) : (accept q s).doneIe = s.doneIe := rfl
@[simp] theorem accept_regs (q : Sequencer) (s : State) : (accept q s).regs = s.regs := rfl
@[simp] theorem accept_buf (q : Sequencer) (s : State) : (accept q s).buf = s.buf := rfl
@[simp] theorem accept_res (q : Sequencer) (s : State) : (accept q s).res = s.res := rfl
@[simp] theorem accept_txSegs (q : Sequencer) (s : State) : (accept q s).txSegs = if q = .runEncode then 0 else s.txSegs := rfl
@[simp] theorem accept_seq (q : Sequencer) (s : State) : (accept q s).seq = q := rfl
@[simp] theorem accept_txlog (q : Sequencer) (s : State) : (accept q s).txlog = s.txlog := rfl
@[simp] theorem accept_inputs (q : Sequencer) (s : State) : (accept q s).inputs = s.inputs := rfl
@[simp] theorem accept_reads (q : Sequencer) (s : State) : (accept q s).reads = s.reads := rfl
@[simp] theorem accept_draws (q : Sequencer) (s : State) : (accept q s).draws = s.draws := rfl
@[simp] theorem accept_status_busy (q : Sequencer) (s : State) : (accept q s).status.busy = true := rfl
@[simp] theorem accept_status_doneFlag (q : Sequencer) (s : State) : (accept q s).status.doneFlag = false := rfl
@[simp] theorem accept_status_success (q : Sequencer) (s : State) : (accept q s).status.success = false := rfl
@[simp] theorem accept_status_err (q : Sequencer) (s : State) : (accept q s).status.err = .none := rfl
@[simp] theorem accept_status_cmdErr (q : Sequencer) (s : State) : (accept q s).status.cmdErr = s.status.cmdErr := rfl
@[simp] theorem accept_status_wErr (q : Sequencer) (s : State) : (accept q s).status.wErr = s.status.wErr := rfl

@[simp] theorem complete_doneIe (b : Bool) (e : ErrCode) (s : State) : (complete b e s).doneIe = s.doneIe := rfl
@[simp] theorem complete_regs (b : Bool) (e : ErrCode) (s : State) : (complete b e s).regs = s.regs := rfl
@[simp] theorem complete_buf (b : Bool) (e : ErrCode) (s : State) : (complete b e s).buf = s.buf := rfl
@[simp] theorem complete_res (b : Bool) (e : ErrCode) (s : State) : (complete b e s).res = s.res := rfl
@[simp] theorem complete_txSegs (b : Bool) (e : ErrCode) (s : State) : (complete b e s).txSegs = s.txSegs := rfl
@[simp] theorem complete_seq (b : Bool) (e : ErrCode) (s : State) : (complete b e s).seq = .idle := rfl
@[simp] theorem complete_txlog (b : Bool) (e : ErrCode) (s : State) : (complete b e s).txlog = s.txlog := rfl
@[simp] theorem complete_inputs (b : Bool) (e : ErrCode) (s : State) : (complete b e s).inputs = s.inputs := rfl
@[simp] theorem complete_reads (b : Bool) (e : ErrCode) (s : State) : (complete b e s).reads = s.reads := rfl
@[simp] theorem complete_draws (b : Bool) (e : ErrCode) (s : State) : (complete b e s).draws = s.draws := rfl
@[simp] theorem complete_status_busy (b : Bool) (e : ErrCode) (s : State) : (complete b e s).status.busy = false := rfl
@[simp] theorem complete_status_doneFlag (b : Bool) (e : ErrCode) (s : State) : (complete b e s).status.doneFlag = true := rfl
@[simp] theorem complete_status_success (b : Bool) (e : ErrCode) (s : State) : (complete b e s).status.success = b := rfl
@[simp] theorem complete_status_err (b : Bool) (e : ErrCode) (s : State) : (complete b e s).status.err = e := rfl
@[simp] theorem complete_status_cmdErr (b : Bool) (e : ErrCode) (s : State) : (complete b e s).status.cmdErr = s.status.cmdErr := rfl
@[simp] theorem complete_status_wErr (b : Bool) (e : ErrCode) (s : State) : (complete b e s).status.wErr = s.status.wErr := rfl

@[simp] theorem emit_status (g : Segment) (s : State) : (emit g s).status = s.status := rfl
@[simp] theorem emit_doneIe (g : Segment) (s : State) : (emit g s).doneIe = s.doneIe := rfl
@[simp] theorem emit_regs (g : Segment) (s : State) : (emit g s).regs = s.regs := rfl
@[simp] theorem emit_buf (g : Segment) (s : State) : (emit g s).buf = s.buf := rfl
@[simp] theorem emit_res (g : Segment) (s : State) : (emit g s).res = s.res := rfl
@[simp] theorem emit_txSegs (g : Segment) (s : State) : (emit g s).txSegs = s.txSegs + 1 := rfl
@[simp] theorem emit_seq (g : Segment) (s : State) : (emit g s).seq = s.seq := rfl
@[simp] theorem emit_txlog (g : Segment) (s : State) : (emit g s).txlog = s.txlog ++ [g] := rfl
@[simp] theorem emit_inputs (g : Segment) (s : State) : (emit g s).inputs = s.inputs := rfl
@[simp] theorem emit_reads (g : Segment) (s : State) : (emit g s).reads = s.reads := rfl
@[simp] theorem emit_draws (g : Segment) (s : State) : (emit g s).draws = s.draws := rfl

@[simp] theorem logRead_status (w : Word) (s : State) : (logRead w s).status = s.status := rfl
@[simp] theorem logRead_doneIe (w : Word) (s : State) : (logRead w s).doneIe = s.doneIe := rfl
@[simp] theorem logRead_regs (w : Word) (s : State) : (logRead w s).regs = s.regs := rfl
@[simp] theorem logRead_buf (w : Word) (s : State) : (logRead w s).buf = s.buf := rfl
@[simp] theorem logRead_res (w : Word) (s : State) : (logRead w s).res = s.res := rfl
@[simp] theorem logRead_txSegs (w : Word) (s : State) : (logRead w s).txSegs = s.txSegs := rfl
@[simp] theorem logRead_seq (w : Word) (s : State) : (logRead w s).seq = s.seq := rfl
@[simp] theorem logRead_txlog (w : Word) (s : State) : (logRead w s).txlog = s.txlog := rfl
@[simp] theorem logRead_inputs (w : Word) (s : State) : (logRead w s).inputs = s.inputs := rfl
@[simp] theorem logRead_reads (w : Word) (s : State) : (logRead w s).reads = s.reads ++ [w] := rfl
@[simp] theorem logRead_draws (w : Word) (s : State) : (logRead w s).draws = s.draws := rfl

@[simp] theorem resetBlock_status (s : State) : (resetBlock s).status = Status.reset := rfl
@[simp] theorem resetBlock_doneIe (s : State) : (resetBlock s).doneIe = false := rfl
@[simp] theorem resetBlock_regs (s : State) : (resetBlock s).regs = Operands.reset := rfl
@[simp] theorem resetBlock_buf (s : State) : (resetBlock s).buf = [] := rfl
@[simp] theorem resetBlock_res (s : State) : (resetBlock s).res = Results.zero := rfl
@[simp] theorem resetBlock_txSegs (s : State) : (resetBlock s).txSegs = 0 := rfl
@[simp] theorem resetBlock_seq (s : State) : (resetBlock s).seq = .idle := rfl
@[simp] theorem resetBlock_txlog (s : State) : (resetBlock s).txlog = [] := rfl
@[simp] theorem resetBlock_inputs (s : State) : (resetBlock s).inputs = s.inputs := rfl
@[simp] theorem resetBlock_reads (s : State) : (resetBlock s).reads = s.reads := rfl
@[simp] theorem resetBlock_draws (s : State) : (resetBlock s).draws = s.draws := rfl

@[simp] theorem writeReg_status (x : Reg) (w : Word) (s : State) : (writeReg x w s).status = s.status := by unfold writeReg; split <;> rfl
@[simp] theorem writeReg_buf (x : Reg) (w : Word) (s : State) : (writeReg x w s).buf = s.buf := by unfold writeReg; split <;> rfl
@[simp] theorem writeReg_res (x : Reg) (w : Word) (s : State) : (writeReg x w s).res = s.res := by unfold writeReg; split <;> rfl
@[simp] theorem writeReg_txSegs (x : Reg) (w : Word) (s : State) : (writeReg x w s).txSegs = s.txSegs := by unfold writeReg; split <;> rfl
@[simp] theorem writeReg_seq (x : Reg) (w : Word) (s : State) : (writeReg x w s).seq = s.seq := by unfold writeReg; split <;> rfl
@[simp] theorem writeReg_txlog (x : Reg) (w : Word) (s : State) : (writeReg x w s).txlog = s.txlog := by unfold writeReg; split <;> rfl
@[simp] theorem writeReg_inputs (x : Reg) (w : Word) (s : State) : (writeReg x w s).inputs = s.inputs := by unfold writeReg; split <;> rfl
@[simp] theorem writeReg_reads (x : Reg) (w : Word) (s : State) : (writeReg x w s).reads = s.reads := by unfold writeReg; split <;> rfl
@[simp] theorem writeReg_draws (x : Reg) (w : Word) (s : State) : (writeReg x w s).draws = s.draws := by unfold writeReg; split <;> rfl

theorem writeReg_inten (w : Word) (s : State) : writeReg .inten w s = { s with doneIe := w.getLsbD 0 } := rfl

theorem writeReg_operand {x : Reg} (h : x ≠ .inten) (w : Word) (s : State) :
    writeReg x w s = { s with regs := s.regs.set x w } := if_neg h

@[simp] theorem withFetchWord_status (s : State) (n w : Nat) : (s.withFetchWord n w).status = s.status := rfl
@[simp] theorem withFetchWord_doneIe (s : State) (n w : Nat) : (s.withFetchWord n w).doneIe = s.doneIe := rfl
@[simp] theorem withFetchWord_regs (s : State) (n w : Nat) : (s.withFetchWord n w).regs = s.regs := rfl
@[simp] theorem withFetchWord_buf (s : State) (n w : Nat) : (s.withFetchWord n w).buf = s.buf := rfl
@[simp] theorem withFetchWord_res (s : State) (n w : Nat) : (s.withFetchWord n w).res = s.res := rfl
@[simp] theorem withFetchWord_txSegs (s : State) (n w : Nat) : (s.withFetchWord n w).txSegs = s.txSegs := rfl
@[simp] theorem withFetchWord_seq (s : State) (n w : Nat) : (s.withFetchWord n w).seq = s.seq := rfl
@[simp] theorem withFetchWord_txlog (s : State) (n w : Nat) : (s.withFetchWord n w).txlog = s.txlog := rfl
@[simp] theorem withFetchWord_reads (s : State) (n w : Nat) : (s.withFetchWord n w).reads = s.reads := rfl
@[simp] theorem withFetchWord_draws (s : State) (n w : Nat) : (s.withFetchWord n w).draws = s.draws := rfl

end Sys2Proof.Machine
end

