-- ==== Sys2Proof/Laws/Decoder.lean ====
section
/-! SUPPORT. The laws of the matcher and of DECODE's core step. -/

namespace Sys2Proof.Machine

theorem distance_eq (m n : Nat) : distance m n = ((m : Int) - n).natAbs := by unfold distance; split <;> omega

theorem distance_self (n : Nat) : distance n n = 0 := by simp [distance]

/-- `Match` as an inequality (43_matcher.md R110). -/
theorem matchNat_iff (tp ta m n : Nat) : matchNat tp ta m n = true ↔ 100 * distance m n ≤ n * tp + 100 * ta := by
  simp [matchNat]

/-- `AtLeast` as an inequality (43_matcher.md R111). -/
theorem atLeastNat_iff (tp ta m g : Nat) : atLeastNat tp ta m g = true ↔ 100 * g ≤ 100 * m + g * tp + 100 * ta := by
  simp [atLeastNat]

/-- Everything DECODE's core step can do: one completion, with the decoded results or with zeros (42_decoder.md R90). -/
theorem coreDecode_cases (strict gapreq : Bool) (s : State) :
    (∃ value n consumed d, decodeFrame strict gapreq s.regs s.buf s.draws = (.success value n consumed, d) ∧
        coreDecode strict gapreq s = complete true .none { s with
          res := { valueLo := value.extractLsb' 0 32, valueHi := value.extractLsb' 32 32
                   nbits := BitVec.ofNat 8 n, tag := s.regs.protoTag, consumed := BitVec.ofNat 8 consumed }
          draws := d }) ∨
      (∃ e d, decodeFrame strict gapreq s.regs s.buf s.draws = (.failure e, d) ∧
        coreDecode strict gapreq s = complete false e { s with res := Results.zero, draws := d }) := by
  unfold coreDecode
  split
  · rename_i value n consumed d h
    exact .inl ⟨value, n, consumed, d, h, rfl⟩
  · rename_i e d h
    exact .inr ⟨e, d, h, rfl⟩

/-- The two halves of a 64-bit result make the value again (10_state.md R32). -/
theorem value_halves (v : BitVec 64) : v.extractLsb' 32 32 ++ v.extractLsb' 0 32 = v := by
  apply BitVec.eq_of_getLsbD_eq
  intro i hi
  rw [BitVec.getLsbD_append, BitVec.getLsbD_extractLsb', BitVec.getLsbD_extractLsb']
  by_cases h : i < 32
  · simp [h]
  · simp [h, show i - 32 < 32 by omega, show 32 + (i - 32) = i by omega]

end Sys2Proof.Machine
end

