-- ==== Sys2Proof/Laws/Encoder.lean ====
section
/-! SUPPORT. The laws of the encoder's sequence and of its core step. -/

namespace Sys2Proof.Machine

@[simp] theorem dataSegments_length (r : Operands) (v : BitVec 64) (n : Nat) : (dataSegments r v n).length = 2 * n := by
  induction n with
  | zero => rfl
  | succ n ih => simp [dataSegments, ih]; omega

@[simp] theorem frame_length (r : Operands) (n : Nat) (v : BitVec 64) : (frame r n v).length = 2 * n + 4 := by
  simp [frame]

@[simp] theorem encodeSeq_length (r : Operands) : (encodeSeq r).length = segmentCount r := by
  simp [encodeSeq, segmentCount]

/-- Validity in the spec's terms (41_encoder.md R80). -/
theorem encodeValid_iff (r : Operands) :
    encodeValid r = true ↔ r.argNbits.toNat ≤ 64 ∧ r.khz ≠ 0 ∧ 1 ≤ r.dutyPct.toNat ∧ r.dutyPct.toNat ≤ 100 := by
  simp [encodeValid, and_assoc]

/-- The number of segments always fits TX_SEGS. -/
theorem segmentCount_lt (r : Operands) : segmentCount r < 2 ^ 32 - 1 := by
  unfold segmentCount
  have h1 : r.repeatCount.toNat + 1 ≤ 65536 := r.repeatCount.isLt
  have h2 : 2 * r.argNbits.toNat + 4 ≤ 514 := by have := r.argNbits.isLt; omega
  calc _ ≤ 65536 * 514 := Nat.mul_le_mul h1 h2
    _ < _ := by norm_num

/-- Everything a core step of ENCODE can do (41_encoder.md R83). -/
theorem coreEncode_cases (s : State) :
    (s.txSegs = 0 ∧ encodeValid s.regs = false ∧ coreEncode s = complete false .configError s) ∨
      ((s.txSegs ≠ 0 ∨ encodeValid s.regs = true) ∧
        ((∃ h : s.txSegs.toNat < segmentCount s.regs,
            coreEncode s = emit ((encodeSeq s.regs)[s.txSegs.toNat]'(by simpa using h)) s) ∨
          (segmentCount s.regs ≤ s.txSegs.toNat ∧ coreEncode s = complete true .none s))) := by
  by_cases hv : s.txSegs = 0 ∧ encodeValid s.regs = false
  · exact .inl ⟨hv.1, hv.2, if_pos hv⟩
  · refine .inr ⟨?_, ?_⟩
    · by_cases h0 : s.txSegs = 0
      · exact .inr (by simpa [h0] using hv)
      · exact .inl h0
    · by_cases h : s.txSegs.toNat < segmentCount s.regs
      · refine .inl ⟨h, ?_⟩
        have : (encodeSeq s.regs)[s.txSegs.toNat]? = some ((encodeSeq s.regs)[s.txSegs.toNat]'(by simpa using h)) :=
          List.getElem?_eq_getElem _
        rw [coreEncode, if_neg hv, this]
      · refine .inr ⟨Nat.le_of_not_lt h, ?_⟩
        have : (encodeSeq s.regs)[s.txSegs.toNat]? = none := List.getElem?_eq_none (by simpa using h)
        rw [coreEncode, if_neg hv, this]

end Sys2Proof.Machine
end

