-- ==== Sys2Proof/Laws/PerInstr.lean ====
section
/-! SUPPORT. Facts of every instruction as syntax, one lemma per constructor. -/

namespace Sys2Proof.Laws.LegalWord

/-- The instruction's word is one of the legal words of 30_encoding.md R64. -/
def Statement (i : Instr) : Prop := legal (encodeWord i) = true

theorem nop : Statement .nop := by unfold Statement; decide

theorem matchTol : Statement .matchTol := by unfold Statement; decide

theorem encode : Statement .encode := by unfold Statement; decide

theorem decode (strict gapreq : Bool) : Statement (.decode strict gapreq) := by
  unfold Statement
  cases strict <;> cases gapreq <;> decide

end Sys2Proof.Laws.LegalWord
end

