-- ==== Sys2Proof/Laws/Port.lean ====
section
/-! SUPPORT. The laws of the register map, of admission and of the host port. -/

namespace Sys2Proof.Machine

/-- Every offset of the map names its register (10_state.md section 1). -/
@[simp] theorem ofOff_off (x : Reg) : Reg.ofOff x.off = some x := by cases x <;> rfl

/-- Only the offsets of the map name a register. -/
theorem off_of_ofOff {off : Nat} {x : Reg} (h : Reg.ofOff off = some x) : x.off = off := by
  have := List.find?_some h
  simpa using this

theorem off_lt (x : Reg) : x.off < bufBase := by cases x <;> decide

theorem off_aligned (x : Reg) : x.off % 4 = 0 := by cases x <;> rfl

theorem inWindow_low {off : Nat} (h : off < bufBase) : inWindow off = true := by simp [inWindow, h]

/-- A 4-byte access at a register's offset is admitted. -/
@[simp] theorem admission_reg (x : Reg) : admission 4 x.off = .admitted (.reg x) := by
  simp [admission, inWindow_low (off_lt x), off_aligned x, locate, off_lt x]

/-- A 4-byte access at a BUF entry's offset is admitted (20_memory.md R41). -/
theorem admission_entry {i : Nat} (h : i < Config.bufDepth) : admission 4 (entryOff i) = .admitted (.buf i) := by
  have hw : inWindow (entryOff i) = true := by
    simp only [inWindow, Bool.or_eq_true, decide_eq_true_eq]
    exact .inr (by unfold entryOff; omega)
  have ha : entryOff i % 4 = 0 := by simp only [entryOff, bufBase]; omega
  have hl : locate (entryOff i) = some (.buf i) := by
    have h1 : ¬ entryOff i < bufBase := by unfold entryOff; omega
    have h2 : (entryOff i - bufBase) / 4 = i := by unfold entryOff; omega
    simp [locate, h1, h2]
  simp [admission, hw, ha, hl]

/-- What an admitted access reaches: a named register at its offset, or an entry of BUF at its offset. -/
theorem admitted_cases {width off : Nat} {t : Target} (h : admission width off = .admitted t) :
    width = 4 ∧ ((∃ x, t = .reg x ∧ x.off = off) ∨ (∃ i, t = .buf i ∧ i < Config.bufDepth ∧ entryOff i = off)) := by
  unfold admission at h
  split at h
  · rename_i hw
    split at h
    · rename_i ha
      refine ⟨ha.1, ?_⟩
      split at h
      · rename_i u hu
        cases h
        unfold locate at hu
        split at hu
        · obtain ⟨x, hx, rfl⟩ := Option.map_eq_some_iff.mp hu
          exact .inl ⟨x, rfl, off_of_ofOff hx⟩
        · cases hu
          rename_i hb
          simp only [inWindow, Bool.or_eq_true, decide_eq_true_eq] at hw
          refine .inr ⟨_, rfl, ?_, ?_⟩
          · omega
          · have := ha.2
            simp only [entryOff]
            have : bufBase % 4 = 0 := rfl
            omega
      · cases h
    · cases h
  · cases h

/-- Only CMD is write-only. -/
theorem access_wo {x : Reg} (h : x.access = .wo) : x = .cmd := by cases x <;> simp_all [Reg.access]

/-- Only STATUS has W1C fields. -/
theorem access_w1c {x : Reg} (h : x.access = .w1c) : x = .status := by cases x <;> simp_all [Reg.access]

/-- Submission of an instruction's meaning never stops: NOP leaves the state, a busy block refuses, an idle one accepts
(40_command.md R70). -/
theorem exec_cases (i : Instr) (s : State) :
    (i = .nop ∧ exec i s = .next s) ∨
      (∃ q, q ≠ .idle ∧ (q = .runEncode ↔ i = .encode) ∧ i ≠ .nop ∧ exec i s = .next (submitCommand q s)) := by
  cases i with
  | nop => exact .inl ⟨rfl, rfl⟩
  | matchTol => exact .inr ⟨.runMatch, by simp, by simp, by simp, rfl⟩
  | encode => exact .inr ⟨.runEncode, by simp, by simp, by simp, rfl⟩
  | decode a b => exact .inr ⟨.runDecode a b, by simp, by simp, by simp, rfl⟩

/-- INTEN keeps bit 0 of the word written. -/
theorem inten_word (w : Word) : ((BitVec.ofBool (w.getLsbD 0)).setWidth 32).toNat = w.toNat % 2 := by
  simp only [BitVec.toNat_setWidth, BitVec.toNat_ofBool, BitVec.getLsbD, Nat.testBit_zero]
  rcases Nat.mod_two_eq_zero_or_one w.toNat with h | h <;> simp [h]

/-- Writing an operand register and reading it back gives the used bits (20_memory.md R46). -/
theorem readReg_writeReg_same {x : Reg} (h : x.access = .rw) (hl : x ≠ .bufLen) (w : Word) (s : State) :
    readReg (writeReg x w s) x = BitVec.ofNat 32 (w.toNat % 2 ^ x.usedBits) := by
  cases x <;> first | (simp [Reg.access] at h; done) | (exact absurd rfl hl) | skip
  case inten =>
    apply BitVec.eq_of_toNat_eq
    rw [BitVec.toNat_ofNat]
    exact (inten_word w).trans (Nat.mod_eq_of_lt (show w.toNat % 2 ^ 1 < 2 ^ 32 by omega)).symm
  all_goals
    apply BitVec.eq_of_toNat_eq
    have := w.isLt
    simp [readReg, writeReg, Operands.set, Reg.usedBits]
  all_goals omega

/-- A write of one register leaves every other register's value (20_memory.md R46). -/
theorem readReg_writeReg_ne {x y : Reg} (h : y ≠ x) (w : Word) (s : State) :
    readReg (writeReg x w s) y = readReg s y := by
  cases x <;> cases y <;> first | rfl | exact absurd rfl h

end Sys2Proof.Machine
end

