-- ==== Sys2Proof/Laws/Step.lean ====
section
/-! SUPPORT. What one step can do, said once; the whole-machine rules follow from it by cases. -/

namespace Sys2Proof.Machine

/-- The state with its first external event taken. -/
def State.popped (s : State) : State := { s with inputs := s.inputs.tail }

/-- One step from `s` that answers a next state: which event was taken, under which condition, and the next state. -/
inductive Took (s : State) : State → Prop where
  /-- the core's turn -/
  | core (h : s.inputs.head? = some .core ∨ s.inputs = []) : Took s (coreStep s.popped)
  /-- the reset step -/
  | reset (h : s.inputs.head? = some .reset) : Took s (resetBlock s.popped)
  /-- a host read of a register -/
  | readReg (x : Reg) (h : s.inputs.head? = some (.host (.read 4 x.off))) :
      Took s (logRead (readReg s.popped x) s.popped)
  /-- a host read of a BUF entry -/
  | readEntry (i : Nat) (hi : i < Config.bufDepth) (h : s.inputs.head? = some (.host (.read 4 (entryOff i)))) :
      Took s (logRead (s.buf.readEntry i s.draws).1 { s.popped with draws := (s.buf.readEntry i s.draws).2 })
  /-- an illegal command word -/
  | illegal (w : Word) (e : DecodeError) (h : s.inputs.head? = some (commandEvent w)) (hw : decodeWord w = .error e) :
      Took s (refuseCommand s.popped)
  /-- NOP -/
  | nop (w : Word) (h : s.inputs.head? = some (commandEvent w)) (hw : decodeWord w = .ok .nop) : Took s s.popped
  /-- a command while BUSY is 1 -/
  | refused (w : Word) (i : Instr) (h : s.inputs.head? = some (commandEvent w)) (hw : decodeWord w = .ok i)
      (hi : i ≠ .nop) (hb : s.status.busy = true) : Took s (refuseCommand s.popped)
  /-- a command while BUSY is 0 -/
  | accepted (w : Word) (i : Instr) (q : Sequencer) (h : s.inputs.head? = some (commandEvent w))
      (hw : decodeWord w = .ok i) (hi : i ≠ .nop) (hb : s.status.busy = false) (hq : q ≠ .idle)
      (he : q = .runEncode ↔ i = .encode) : Took s (accept q s.popped)
  /-- a host write of STATUS -/
  | clear (w : Word) (h : s.inputs.head? = some (.host (.write 4 Reg.status.off w))) : Took s (clearStatus w s.popped)
  /-- a host write of a read-only register -/
  | ignored (x : Reg) (w : Word) (h : s.inputs.head? = some (.host (.write 4 x.off w))) (hx : x.access = .ro) :
      Took s s.popped
  /-- a host write of an operand register while BUSY is 1 -/
  | droppedReg (x : Reg) (w : Word) (h : s.inputs.head? = some (.host (.write 4 x.off w))) (hx : x.access = .rw)
      (hn : x ≠ .inten) (hb : s.status.busy = true) : Took s (dropWrite s.popped)
  /-- a host write of a BUF entry while BUSY is 1 -/
  | droppedEntry (i : Nat) (w : Word) (hi : i < Config.bufDepth)
      (h : s.inputs.head? = some (.host (.write 4 (entryOff i) w))) (hb : s.status.busy = true) :
      Took s (dropWrite s.popped)
  /-- a performed host write of a read-write register -/
  | wroteReg (x : Reg) (w : Word) (h : s.inputs.head? = some (.host (.write 4 x.off w))) (hx : x.access = .rw)
      (hb : s.status.busy = false ∨ x = .inten) : Took s (writeReg x w s.popped)
  /-- a performed host write of a BUF entry -/
  | wroteEntry (i : Nat) (w : Word) (hi : i < Config.bufDepth)
      (h : s.inputs.head? = some (.host (.write 4 (entryOff i) w))) (hb : s.status.busy = false) :
      Took s { s.popped with buf := s.buf.setEntry i w }

theorem took_submit {s s' : State} {w : Word} (h : s.inputs.head? = some (commandEvent w))
    (hs : submit w s.popped = .next s') : Took s s' := by
  unfold submit at hs
  split at hs
  · rename_i i hi
    rcases exec_cases i s.popped with ⟨rfl, he⟩ | ⟨q, hq, hqe, hn, he⟩
    · rw [he] at hs
      cases hs
      exact .nop w h hi
    · rw [he] at hs
      cases hs
      unfold submitCommand
      split
      · rename_i hb
        exact .refused w i h hi hn hb
      · rename_i hb
        exact .accepted w i q h hi hn (Bool.eq_false_iff.mpr hb) hq hqe
  · rename_i e hi
    cases hs
    exact .illegal w e h hi

theorem took_hostRead {s s' : State} {t : Target} {width off : Nat}
    (h : s.inputs.head? = some (.host (.read width off))) (ha : admission width off = .admitted t)
    (hs : hostRead t s.popped = .next s') : Took s s' := by
  obtain ⟨rfl, ⟨x, rfl, rfl⟩ | ⟨i, rfl, hi, rfl⟩⟩ := admitted_cases ha
  · cases hs
    exact .readReg x h
  · cases hs
    exact .readEntry i hi h

theorem took_hostWrite {s s' : State} {t : Target} {width off : Nat} {w : Word}
    (h : s.inputs.head? = some (.host (.write width off w))) (ha : admission width off = .admitted t)
    (hs : hostWrite t w s.popped = .next s') : Took s s' := by
  obtain ⟨rfl, ⟨x, rfl, rfl⟩ | ⟨i, rfl, hi, rfl⟩⟩ := admitted_cases ha
  · simp only [hostWrite] at hs
    cases hx : x.access with
    | wo =>
      rw [hx] at hs
      obtain rfl := access_wo hx
      exact took_submit h hs
    | w1c =>
      rw [hx] at hs
      obtain rfl := access_w1c hx
      cases hs
      exact .clear w h
    | ro =>
      rw [hx] at hs
      cases hs
      exact .ignored x w h hx
    | rw =>
      rw [hx] at hs
      simp only at hs
      split at hs
      · rename_i hb
        cases hs
        exact .droppedReg x w h hx hb.2 hb.1
      · rename_i hb
        cases hs
        refine .wroteReg x w h hx ?_
        by_cases hxi : x = .inten
        · exact .inr hxi
        · exact .inl (Bool.eq_false_iff.mpr fun hbt => hb ⟨hbt, hxi⟩)
  · simp only [hostWrite] at hs
    split at hs
    · rename_i hb
      cases hs
      exact .droppedEntry i w hi h hb
    · rename_i hb
      cases hs
      exact .wroteEntry i w hi h (Bool.eq_false_iff.mpr hb)

/-- Every step that answers a next state is one of the cases of `Took`. -/
theorem step_took {s s' : State} (h : step s = .next s') : Took s s' := by
  unfold step at h
  split at h
  · rename_i a rest hin
    have hp : { s with inputs := rest } = s.popped := by simp [State.popped, hin]
    rw [hp] at h
    cases a with
    | read width off =>
      have hh : s.inputs.head? = some (.host (.read width off)) := by simp [hin]
      simp only [hostStep] at h
      split at h
      · exact took_hostRead hh ‹_› h
      · cases h
      · cases h
    | write width off w =>
      have hh : s.inputs.head? = some (.host (.write width off w)) := by simp [hin]
      simp only [hostStep] at h
      split at h
      · exact took_hostWrite hh ‹_› h
      · cases h
      · cases h
  · rename_i rest hin
    have hp : { s with inputs := rest } = s.popped := by simp [State.popped, hin]
    cases h
    rw [hp]
    exact .core (.inl (by simp [hin]))
  · rename_i rest hin
    have hp : { s with inputs := rest } = s.popped := by simp [State.popped, hin]
    cases h
    rw [hp]
    exact .reset (by simp [hin])
  · rename_i hin
    have hp : s = s.popped := by cases s; simp_all [State.popped]
    cases h
    conv => arg 2; rw [hp]
    exact .core (.inr hin)

end Sys2Proof.Machine
end

