-- ==== Sys2Proof/Tests/Slice0.lean ====
section
/-! SUPPORT. Tests with expected results from 95_test_vectors.md or counted by hand from the rules named, and for every
statement with hypotheses a witness that meets them. -/

namespace Sys2Proof.Tests

open Sys2Proof.Machine

/-! ### Helpers -/

/-- Descriptor S with tolerance T25 (95_test_vectors.md, common setup). -/
def regsS : Operands :=
  { tolPct := 25, tolAbs := 0, hdrMark := 3400, hdrSpace := 1334, bitMark := 600, oneSpace := 1000, zeroSpace := 600
    ftrMark := 600, minGap := 40000, carrier := 0x320026, descNbits := 0, repeatCount := 0, protoTag := 7
    argNbits := 0, offset := 0, bufLen := 0, payloadLo := 0, payloadHi := 0, meas := 0, nom := 0 }

/-- An idle block with the given operand registers. -/
def idleWith (r : Operands) : State := { State.reset with regs := r }

/-- A block running the given command. -/
def busyWith (q : Sequencer) (r : Operands) : State :=
  { idleWith r with status := Status.reset.accepted, seq := q }

/-- STATUS = 0x00000306. -/
def status306 : Status :=
  { busy := false, doneFlag := true, success := true, err := .none, cmdErr := true, wErr := true }

/-- BUF with the given words from entry 0 on. -/
def bufOf : List Nat → Memory → Nat → Memory
  | [], m, _ => m
  | w :: ws, m, i => bufOf ws (m.setEntry i (BitVec.ofNat 32 w)) (i + 1)

/-- The four-bit setup of DEC-20 to DEC-23: OFFSET 0, four bits, the given entries of BUF. -/
def capture4 (entries : List Nat) : State :=
  { idleWith { regsS with descNbits := 4, argNbits := 4, bufLen := BitVec.ofNat 17 entries.length } with
    buf := bufOf entries [] 0 }

/-- The zero-bit setup of DEC-15: the given entries of BUF. -/
def capture0 (entries : List Nat) : State :=
  { idleWith { regsS with bufLen := BitVec.ofNat 17 entries.length } with buf := bufOf entries [] 0 }

/-- A one-bit setup. -/
def capture1 (entries : List Nat) : State :=
  { idleWith { regsS with descNbits := 1, argNbits := 1, bufLen := BitVec.ofNat 17 entries.length } with
    buf := bufOf entries [] 0 }

/-- The jittered capture of DEC-21. -/
def jittered : List Nat := [3300, 1400, 640, 980, 560, 700, 700, 1240, 460, 460, 720, 35000]

/-- The state after a command is submitted and the core has had one turn. -/
def submitAndTurn (i : Instr) (s : State) : State :=
  match exec i s with
  | .next t => coreStep t
  | .fault _ => s
  | .refused _ => s

theorem bufDepth_ge : 132 ≤ Config.bufDepth := by unfold Config.bufDepth; omega

/-! ### Well-formedness: one ill-formed word per check, refused by the check and by the decoder -/

/-- CMD-1: OP 4. -/
theorem test_illegal_op : opKnown 0x00000004#32 = false ∧ legal 0x00000004#32 = false ∧
    decodeWord 0x00000004#32 = .error (.reservedOp 4) := by decide

/-- CMD-3: bit 4 set on DECODE. -/
theorem test_illegal_low : lowReservedClear 0x00000013#32 = false ∧ legal 0x00000013#32 = false ∧
    decodeWord 0x00000013#32 = .error .reservedBitSet := by decide

/-- CMD-4: bit 31 set on ENCODE; and bit 10, the lowest of 31:10. -/
theorem test_illegal_high : highReservedClear 0x80000002#32 = false ∧ legal 0x80000002#32 = false ∧
    decodeWord 0x80000002#32 = .error .reservedBitSet ∧ legal 0x00000403#32 = false := by decide

/-- CMD-2: STRICT on MATCH; and GAPREQ on ENCODE and on NOP. -/
theorem test_illegal_mode : modeBitsAllowed 0x00000101#32 = false ∧ legal 0x00000101#32 = false ∧
    decodeWord 0x00000101#32 = .error .modeBitOnOtherOp ∧ legal 0x00000202#32 = false ∧
    legal 0x00000200#32 = false := by decide

/-! ### Decoding: words written out from 30_encoding.md -/

/-- OP 0, all other bits 0. -/
theorem test_decode_nop : decodeTableWord 32 0x00000000 = some .nop := by decide

/-- OP 1. -/
theorem test_decode_match : decodeTableWord 32 0x00000001 = some .matchTol := by decide

/-- OP 2. -/
theorem test_decode_encode : decodeTableWord 32 0x00000002 = some .encode := by decide

/-- OP 3, STRICT bit 8, GAPREQ bit 9. -/
theorem test_decode_decode :
    decodeTableWord 32 0b0011 = some (.decode false false) ∧
      decodeTableWord 32 0b0001_0000_0011 = some (.decode true false) ∧
      decodeTableWord 32 0b0010_0000_0011 = some (.decode false true) ∧
      decodeTableWord 32 0b0011_0000_0011 = some (.decode true true) := by decide

/-- The bytes of 0x00000103, lane 0 first (20_memory.md R42). -/
theorem test_decode_bytes : decodeBytes [0x03, 0x01, 0x00, 0x00, 0xAA] = .ok (.decode true false, [0xAA]) := by decide

/-- Four words run as the first instruction after reset, three of them leaving BUSY 1. -/
theorem test_first_step :
    step (State.reset.withFetchWord 32 0x00000000) = .next State.reset ∧
      step (State.reset.withFetchWord 32 0x00000001) = exec .matchTol State.reset ∧
      step (State.reset.withFetchWord 32 0x00000002) = exec .encode State.reset ∧
      step (State.reset.withFetchWord 32 0x00000303) = exec (.decode true true) State.reset := by
  refine ⟨rfl, rfl, rfl, rfl⟩

/-! ### The instructions -/

/-- NOP-1: STATUS 0x00000006 stays. -/
theorem test_nop : (submitAndTurn .nop { idleWith regsS with status := Status.reset.completed true .none }).status.word
    = 0x00000006#32 := by decide

/-- CMD-1: an illegal word sets CMDERR and nothing else. -/
theorem test_illegal_word : submit 0x00000004#32 (idleWith regsS) =
    .next { idleWith regsS with status := { Status.reset with cmdErr := true } } := by rfl

/-- CMD-9: the acceptance of MATCH after a completed command gives STATUS 0x00000001. -/
theorem test_match_accept :
    ∃ t, exec .matchTol { idleWith regsS with status := Status.reset.completed true .none } = .next t ∧
      t.status.word = 0x00000001#32 := ⟨_, rfl, by decide⟩

/-- MAT-1 and MAT-2: 1250 matches 1000 at 25 %, 1251 does not. -/
theorem test_match_edge :
    (submitAndTurn .matchTol (idleWith { regsS with meas := 1250, nom := 1000 })).status.word = 0x00000006#32 ∧
      (submitAndTurn .matchTol (idleWith { regsS with meas := 1251, nom := 1000 })).status.word = 0x00000002#32 := by
  decide

/-- MAT-9, MAT-12, MAT-22 to MAT-25, ATL-1, ATL-2, ATL-8. -/
theorem test_match_values :
    matchNat 25 50 800 600 = true ∧ matchNat 25 50 399 600 = false ∧ matchNat 100 0 0 0xFFFFFFFF = true ∧
      matchNat 99 0 0 0xFFFFFFFF = false ∧ matchNat 255 0xFFFFFFFF 0xFFFFFFFF 0 = true ∧
      matchNat 255 0xFFFFFFFE 0xFFFFFFFF 0 = false ∧ atLeastNat 25 0 30000 40000 = true ∧
      atLeastNat 25 0 29999 40000 = false ∧ atLeastNat 0 10 39989 40000 = false := by decide

/-- ENC-10: three bits of 0x4, most significant first. -/
theorem test_encode_msb_first :
    encodeSeq { regsS with argNbits := 3, payloadLo := 4 } =
      [⟨.mark, 3400⟩, ⟨.space, 1334⟩, ⟨.mark, 600⟩, ⟨.space, 1000⟩, ⟨.mark, 600⟩, ⟨.space, 600⟩, ⟨.mark, 600⟩, ⟨.space, 600⟩,
        ⟨.mark, 600⟩, ⟨.space, 40000⟩] := by decide

/-- ENC-4, with its four emissions and its completion, and ENC-9: CARRIER 0 is a ConfigError. -/
theorem test_encode_run :
    (coreSteps 4 (submitAndTurn .encode (idleWith { regsS with payloadLo := 0x1234 }))).txlog =
        [⟨.mark, 3400⟩, ⟨.space, 1334⟩, ⟨.mark, 600⟩, ⟨.space, 40000⟩] ∧
      (coreSteps 4 (submitAndTurn .encode (idleWith { regsS with payloadLo := 0x1234 }))).status.word = 0x00000006#32 ∧
      (coreSteps 3 (submitAndTurn .encode (idleWith { regsS with payloadLo := 0x1234 }))).status.word = 0x00000001#32 ∧
      (submitAndTurn .encode (idleWith { regsS with carrier := 0 })).status.word = 0x00000062#32 := by decide

/-- DEC-21: the jittered capture decodes to 0xA. -/
theorem test_decode_jittered :
    (submitAndTurn (.decode true true) (capture4 jittered)).res =
      { valueLo := 0xA, valueHi := 0, nbits := 4, tag := 7, consumed := 11 } := by decide

/-- DEC-15: no data bits and no gap; DEC-4 and DEC-16 with its descriptor: HeaderMismatch and ConfigError. -/
theorem test_decode_status :
    (submitAndTurn (.decode true false) (capture0 [3400, 1334, 600])).status.word = 0x00000006#32 ∧
      (submitAndTurn (.decode true false) (capture0 [3400, 1334, 600])).res.consumed = 3 ∧
      (submitAndTurn (.decode true false) (capture0 [2000, 1334, 600])).status.word = 0x00000022#32 ∧
      (submitAndTurn (.decode false false) (idleWith { regsS with argNbits := 65 })).status.word = 0x00000062#32 := by
  decide

/-! ### The host port -/

/-- CMD-7: writing 0x100 to STATUS 0x00000306 clears CMDERR alone. -/
theorem test_status_w1c : (clearStatus 0x00000100#32 { idleWith regsS with status := status306 }).status.word
    = 0x00000206#32 := by decide

/-- BUS-5: DESC_NBITS keeps bits 7:0. -/
theorem test_used_bits : readReg (writeReg .descNbits 0x00000141#32 (idleWith regsS)) .descNbits = 0x41#32 := by decide

/-- BUS-1 to BUS-3: a 2-byte access, an odd word address, an unnamed offset. -/
theorem test_bad_access :
    admission 2 0x020 = .badAccess ∧ admission 4 0x022 = .badAccess ∧ admission 4 0x04C = .badAccess ∧
      admission 4 0x020 = .admitted (.reg .hdrMark) := by decide

/-! ### Witnesses: for every statement with hypotheses, a state and operands that meet them, clause by clause -/

theorem witness_StepRunsDecodedCommand : decodeWord 0x00000303#32 = .ok (.decode true true) := by decide

theorem witness_StepTakesTurns :
    State.reset.inputs = [] ∧ State.reset.seq = .idle ∧ (busyWith .runMatch regsS).seq = .runMatch ∧
      (busyWith .runEncode regsS).seq = .runEncode ∧
      (busyWith (.runDecode true false) regsS).seq = .runDecode true false := ⟨rfl, rfl, rfl, rfl, rfl⟩

theorem witness_QuietHostRunsCore : (busyWith .runEncode regsS).inputs = [] := rfl

theorem witness_LegalWordsAreExactlySeven :
    legal 0x00000303#32 = true ∧ legal 0x00000302#32 = false ∧ legal 0x00000403#32 = false := by decide

theorem witness_BusyBlockRefusesCommand :
    (busyWith .runEncode regsS).status.busy = true ∧ Instr.decode true true ≠ .nop := by decide

theorem witness_IdleBlockAcceptsCommand :
    (idleWith regsS).status.busy = false ∧ Instr.encode ≠ .nop ∧ ∃ t, exec .encode (idleWith regsS) = .next t :=
  ⟨rfl, by decide, _, rfl⟩

theorem witness_SubmissionFrame :
    (∃ t, exec .encode (idleWith regsS) = .next t) ∧
      ∃ t, exec .matchTol (idleWith regsS) = .next t ∧ Instr.matchTol ≠ .encode := ⟨⟨_, rfl⟩, _, rfl, by decide⟩

theorem witness_CoreStepFrame :
    (∀ strict gapreq, (busyWith .runEncode regsS).seq ≠ .runDecode strict gapreq) ∧
      (busyWith (.runDecode true true) regsS).seq ≠ .runEncode := by decide

theorem witness_AcceptedCommandCompletes :
    (idleWith regsS).status.busy = false ∧ Instr.encode ≠ .nop ∧ Instr.decode false true ≠ .nop ∧
      Instr.decode false true ≠ .encode := by decide

theorem witness_MatchReportsWindow : (idleWith regsS).status.busy = false := rfl

theorem witness_MatchLaws :
    10 ≤ 25 ∧ 0 ≤ 0 ∧ matchNat 10 0 1100 1000 = true ∧ 1000 ≤ 1000 ∧ 1000 * 25 % 100 = 0 ∧
      matchNat 25 0 750 1000 = true := by decide

theorem witness_MatchCornerCases : 100 ≤ 100 ∧ 210 ≤ 2 * 100 + 10 ∧ 40000 ≤ 40000 := by decide

theorem witness_FrameLayout : 0 < 1 ∧ 63 < 64 := by decide

theorem witness_EncodeSeqRepeatsFrame :
    ({ regsS with argNbits := 64, repeatCount := 65535 } : Operands).argNbits.toNat ≤ 64 ∧
      8650751 < (65535 + 1) * (2 * 64 + 4) := by decide

/-- Valid at the edges n = 64, DUTY_PCT 1 and 100 (ENC-13), and invalid by each of the four conditions (ENC-5 to ENC-8). -/
theorem witness_EncodeEmitsWholeSequence :
    (idleWith regsS).status.busy = false ∧
      (∀ duty ∈ [1, 50, 100],
        let r := { regsS with argNbits := 64, carrier := duty <<< 16 ||| 38 }
        r.argNbits.toNat ≤ 64 ∧ r.khz ≠ 0 ∧ 1 ≤ r.dutyPct.toNat ∧ r.dutyPct.toNat ≤ 100) ∧
      (∀ r ∈ [{ regsS with argNbits := 65 }, { regsS with carrier := 0x000026 }, { regsS with carrier := 0x650026 },
          { regsS with carrier := 0x320000 }],
        ¬ (r.argNbits.toNat ≤ 64 ∧ r.khz ≠ 0 ∧ 1 ≤ r.dutyPct.toNat ∧ r.dutyPct.toNat ≤ 100)) ∧
      4 ≤ (0 + 1) * (2 * 0 + 4) := by decide

theorem witness_PayloadTruncatedSilently : 0 ≤ 64 ∧ 4 ≤ 64 ∧ 64 ≤ 64 := by decide

theorem witness_BitCountLimits :
    regsS.oneSpace ≠ regsS.zeroSpace ∧ frame regsS 64 5 = frame regsS 64 5 ∧ regsS.khz ≠ 0 ∧
      1 ≤ regsS.dutyPct.toNat ∧ regsS.dutyPct.toNat ≤ 100 ∧
      (let s := busyWith .runEncode { regsS with argNbits := 65 }
       s.seq = .runEncode ∧ s.txSegs = 0 ∧ 64 < s.regs.argNbits.toNat) := by decide

/-- The first segment of a valid ENCODE, and the last of four. -/
theorem witness_LineFollowsEmission :
    (idleWith regsS).seq ≠ .runEncode ∧ (busyWith .runEncode regsS).seq = .runEncode ∧ encodeValid regsS = true ∧
      0 < segmentCount regsS ∧ (3 : Word) ≠ 0 ∧ (3 : Word).toNat < segmentCount regsS ∧
      (encodeSeq regsS)[3]? = some ⟨.space, 40000⟩ := by decide

theorem witness_StrictCheckComesFirst :
    (idleWith regsS).status.busy = false ∧ ({ regsS with argNbits := 16, descNbits := 32 } : Operands).argNbits ≠ 32 ∧
      (busyWith (.runDecode false true) regsS).seq = .runDecode false true := by decide

theorem witness_TooManyBitsIsConfigError :
    let r := { regsS with argNbits := 65, descNbits := 65 }
    (idleWith r).status.busy = false ∧ (true = true → r.argNbits = r.descNbits) ∧ 64 < r.argNbits.toNat := by decide

/-- DEC-11's kind, one entry short of the frame, and DEC-2's kind, the gap alone missing; at n = 64 and n = 0. -/
theorem witness_ShortBufferFails :
    let r := { regsS with argNbits := 64, descNbits := 64, bufLen := 130 }
    let g := { regsS with bufLen := 3 }
    (idleWith r).status.busy = false ∧ (true = true → r.argNbits = r.descNbits) ∧ r.argNbits.toNat ≤ 64 ∧
      r.bufLen.toNat < r.offset.toNat + (2 + 2 * r.argNbits.toNat + 1) ∧
      (idleWith g).status.busy = false ∧ (true = true → g.argNbits = g.descNbits) ∧ g.argNbits.toNat ≤ 64 ∧
      g.bufLen.toNat = g.offset.toNat + (2 + 2 * g.argNbits.toNat + 1) := by decide

/-- DEC-4c and DEC-5's kinds: the header mark one below its window; the header space above it. -/
theorem witness_HeaderMismatchFails :
    (∀ s ∈ [capture0 [2549, 1334, 600], capture0 [2550, 2000, 600]],
      s.status.busy = false ∧ s.regs.frameFits true false) ∧
      (∀ s ∈ [capture0 [2549, 1334, 600]],
        s.regs.matches (s.seen 0) s.regs.hdrMark = false) ∧
      (∀ s ∈ [capture0 [2550, 2000, 600]],
        s.regs.matches (s.seen 0) s.regs.hdrMark = true ∧ s.regs.matches (s.seen 1) s.regs.hdrSpace = false) := by
  unfold Operands.frameFits
  decide

/-- DEC-6 and DEC-7's kinds, at the second of four bits. -/
theorem witness_BitMismatchFails :
    (∀ s ∈ [capture4 [3400, 1334, 600, 1000, 900, 600, 600, 600, 600, 600, 600],
        capture4 [3400, 1334, 600, 1000, 600, 1300, 600, 600, 600, 600, 600]],
      s.status.busy = false ∧ s.regs.frameFits true false ∧ s.headerOk ∧ 1 < s.regs.argNbits.toNat ∧
        ∀ j < 1, s.bitOk j) ∧
      ¬ (capture4 [3400, 1334, 600, 1000, 900, 600, 600, 600, 600, 600, 600]).bitMarkOk 1 ∧
      (capture4 [3400, 1334, 600, 1000, 600, 1300, 600, 600, 600, 600, 600]).bitMarkOk 1 ∧
      ¬ (capture4 [3400, 1334, 600, 1000, 600, 1300, 600, 600, 600, 600, 600]).bitSpaceOk 1 := by
  unfold Operands.frameFits State.headerOk State.bitOk State.bitMarkOk State.bitSpaceOk
  decide

/-- DEC-8 and DEC-9's kinds, with one data bit. -/
theorem witness_FooterMismatchFails :
    (∀ s ∈ [capture1 [3400, 1334, 600, 1000, 1000], capture1 [3400, 1334, 600, 1000, 600, 29999]],
      s.status.busy = false ∧ s.regs.frameFits true false ∧ s.headerOk ∧ ∀ k < s.regs.argNbits.toNat, s.bitOk k) ∧
      (∀ s ∈ [capture1 [3400, 1334, 600, 1000, 1000]],
        s.regs.matches (s.seen 4) s.regs.ftrMark = false) ∧
      (∀ s ∈ [capture1 [3400, 1334, 600, 1000, 600, 29999]],
        s.regs.matches (s.seen 4) s.regs.ftrMark = true ∧ s.regs.offset.toNat + 3 + 2 * 1 < s.regs.bufLen.toNat ∧
          s.regs.atLeast (s.seen 5) s.regs.minGap = false) := by
  unfold Operands.frameFits State.headerOk State.bitOk State.bitMarkOk State.bitSpaceOk
  decide

/-- With the gap just long enough (DEC-10's kind), and with no gap entry (DEC-15's kind). -/
theorem witness_DecodeReportsValue :
    (∀ s ∈ [capture1 [3400, 1334, 600, 1000, 600, 30000], capture1 [3400, 1334, 600, 600, 600], capture0 [3400, 1334, 600]],
      s.status.busy = false ∧ s.regs.frameFits true false ∧ s.headerOk ∧ (∀ k < s.regs.argNbits.toNat, s.bitOk k) ∧
        s.regs.matches (s.seen (2 + 2 * s.regs.argNbits.toNat)) s.regs.ftrMark = true ∧
        (s.regs.offset.toNat + 3 + 2 * s.regs.argNbits.toNat < s.regs.bufLen.toNat →
          s.regs.atLeast (s.seen (3 + 2 * s.regs.argNbits.toNat)) s.regs.minGap = true)) ∧
      (capture1 [3400, 1334, 600, 1000, 600, 30000]).regs.frameFits true true := by
  unfold Operands.frameFits State.headerOk State.bitOk State.bitMarkOk State.bitSpaceOk
  decide

theorem witness_FailedDecodeLeavesZeros :
    (∃ s, s.seq = .runDecode true false ∧ (coreStep s).status.success = false) ∧
      ∃ s, s.seq = .runDecode true false ∧ (coreStep s).status.success = true :=
  ⟨⟨{ capture0 [3400] with seq := .runDecode true false }, by decide⟩,
    { capture0 [3400, 1334, 600] with seq := .runDecode true false }, by decide⟩

/-- Two BUFs that differ outside the frame: the entry after the gap. -/
theorem witness_DecodeReadsOnlyFrame :
    let s := { capture0 [3400, 1334, 600, 40000, 7] with seq := .runDecode true true }
    s.seq = .runDecode true true ∧ bufOf [3400, 1334, 600, 40000, 8] [] 0 ≠ s.buf ∧
      ∀ i < 4, (bufOf [3400, 1334, 600, 40000, 8] [] 0).entry i = s.buf.entry i := by decide

/-- RT-1 and RT-2's kinds with two bits: with the gap, and without it and with ZERO_SPACE in ONE_SPACE's window. -/
theorem witness_EncodeDecodeRoundTrip :
    let s := { idleWith { regsS with tolPct := 39, descNbits := 2, argNbits := 2, bufLen := 8, payloadLo := 1 } with
      buf := bufOf [3400, 1334, 600, 600, 600, 1000, 600, 40000] [] 0 }
    let t := { idleWith { regsS with tolPct := 40, descNbits := 2, argNbits := 2, bufLen := 7, payloadLo := 1 } with
      buf := bufOf [3400, 1334, 600, 600, 600, 1000, 600] [] 0 }
    s.status.busy = false ∧ (true = true → true = true) ∧ s.regs.descNbits = s.regs.argNbits ∧
      s.regs.argNbits.toNat ≤ 64 ∧ s.regs.bufLen.toNat = s.regs.offset.toNat + 2 * s.regs.argNbits.toNat + 4 ∧
      (∀ j < 2 * s.regs.argNbits.toNat + 4, s.buf.entry (s.regs.offset.toNat + j) =
        ((frame s.regs s.regs.argNbits.toNat s.regs.payload)[j]?).map Segment.dur) ∧
      s.regs.matches s.regs.zeroSpace s.regs.oneSpace = false ∧
      t.status.busy = false ∧ t.regs.descNbits = t.regs.argNbits ∧ t.regs.argNbits.toNat ≤ 64 ∧
      t.regs.bufLen.toNat = t.regs.offset.toNat + 2 * t.regs.argNbits.toNat + 3 ∧
      (∀ j < 2 * t.regs.argNbits.toNat + 3, t.buf.entry (t.regs.offset.toNat + j) =
        ((frame t.regs t.regs.argNbits.toNat t.regs.payload)[j]?).map Segment.dur) ∧
      t.regs.matches t.regs.zeroSpace t.regs.oneSpace = true := by decide

/-- Operands that agree on the list of each command and differ elsewhere: PROTO_TAG is in neither MATCH's nor ENCODE's,
PAYLOAD not in DECODE's. -/
theorem witness_CoreStepReadsListedRegisters :
    let r := { regsS with protoTag := 8 }
    let d := { regsS with payloadLo := 1 }
    (r ≠ regsS ∧ r.meas = regsS.meas ∧ r.nom = regsS.nom ∧ r.tolPct = regsS.tolPct ∧ r.tolAbs = regsS.tolAbs) ∧
      (r.hdrMark = regsS.hdrMark ∧ r.carrier = regsS.carrier ∧ r.repeatCount = regsS.repeatCount ∧
        r.argNbits = regsS.argNbits ∧ r.payload = regsS.payload) ∧
      (d ≠ regsS ∧ d.hdrMark = regsS.hdrMark ∧ d.descNbits = regsS.descNbits ∧ d.protoTag = regsS.protoTag ∧
        d.offset = regsS.offset ∧ d.bufLen = regsS.bufLen) := by decide

/-- The first entry and the last of the least BUF, written and not. -/
theorem witness_HostReadsReturnData :
    0 < Config.bufDepth ∧ 131 < Config.bufDepth ∧ (capture0 [3400]).buf.entry 0 = some 3400 ∧
      (capture0 [3400]).buf.entry 131 = none ∧ (0x000, 0) ∈ State.reset.readMap ∧ (0x094, 0) ∈ State.reset.readMap :=
  ⟨by have := bufDepth_ge; omega, by have := bufDepth_ge; omega, by decide, by decide, .head _,
    List.getLast_mem (l := State.reset.readMap) (by simp [State.readMap])⟩

theorem witness_StatusWordLayout : 10 ≤ 10 := by decide

/-- The last entry of BUF; a read-only and a read-write register, by name and by offset. -/
theorem witness_HostWriteEffects :
    (idleWith regsS).status.busy = false ∧ Config.bufDepth - 1 < Config.bufDepth ∧ (0 : Nat) ≠ Config.bufDepth - 1 ∧
      Reg.resTag.access = .ro ∧ Reg.tolPct.access = .rw ∧ Reg.tolPct ≠ .bufLen ∧ Reg.meas ≠ .tolPct ∧
      (0x00C, { regsS with tolPct := 0x41 }) ∈ regsS.writeMap 0x141 ∧
      (0x068, { regsS with nom := 0x141 }) ∈ regsS.writeMap 0x141 ∧ 0x094 ∈ readOnlyOffsets :=
  ⟨rfl, by have := bufDepth_ge; omega, by have := bufDepth_ge; omega, rfl, rfl, by decide, by decide, by decide, by decide,
    by decide⟩

theorem witness_BusyWritesDropped :
    (busyWith .runEncode regsS).status.busy = true ∧ Reg.hdrMark.access = .rw ∧ Reg.hdrMark ≠ .inten ∧
      Config.bufDepth - 1 < Config.bufDepth ∧ Reg.resTag.access = .ro ∧ 0x00C ∈ operandOffsets ∧ 0x068 ∈ operandOffsets ∧
      0x080 ∈ readOnlyOffsets :=
  ⟨rfl, rfl, by decide, by have := bufDepth_ge; omega, rfl, by decide, by decide, by decide⟩

theorem witness_BufWriteStoresLanes :
    (idleWith regsS).status.busy = false ∧ 131 < Config.bufDepth ∧ 3 < 4 ∧ 0x1000 + 4 * 131 - 1 < 0x1000 + 4 * 131 ∧
      0x1000 + 4 * 131 + 4 ≤ 0x1000 + 4 * 132 := ⟨rfl, by have := bufDepth_ge; omega, by decide, by decide, by decide⟩

theorem witness_PayloadIsTwoWrites : (idleWith regsS).status.busy = false := rfl

/-- BUS-1 and BUS-2's kinds, the second at the last byte of the window. -/
theorem witness_BadWidthOrAlignmentIsBusError :
    (0x020 < 0x1000 + 4 * Config.bufDepth ∧ (2 : Nat) ≠ 4) ∧
      (0x1000 + 4 * Config.bufDepth - 1 < 0x1000 + 4 * Config.bufDepth ∧
        (Config.irptBase + (0x1000 + 4 * Config.bufDepth - 1)) % 4 ≠ 0) := by
  have := bufDepth_ge
  have : Config.irptBase = 4 * Config.irptBaseWords := rfl
  omega

/-- Each unnamed range at both its ends, the named offsets beside them, and the last entry of BUF. -/
theorem witness_UnnamedOffsetsAreBusErrors :
    (∀ off ∈ [0x014, 0x01C, 0x04C, 0x06C, 0x07C, 0x098, 0xFFC], off % 4 = 0 ∧ off < 0x1000 + 4 * Config.bufDepth ∧
      ((0x014 ≤ off ∧ off ≤ 0x01C) ∨ off = 0x04C ∨ (0x06C ≤ off ∧ off ≤ 0x07C) ∨ (0x098 ≤ off ∧ off ≤ 0xFFC))) ∧
      (∀ off ∈ [0x000, 0x010, 0x020, 0x048, 0x050, 0x068, 0x080, 0x094, 0x1000, 0x1000 + 4 * (Config.bufDepth - 1)],
        off % 4 = 0 ∧ off < 0x1000 + 4 * Config.bufDepth ∧
        ¬ ((0x014 ≤ off ∧ off ≤ 0x01C) ∨ off = 0x04C ∨ (0x06C ≤ off ∧ off ≤ 0x07C) ∨ (0x098 ≤ off ∧ off ≤ 0xFFC))) := by
  have := bufDepth_ge
  constructor <;> intro off h <;> simp only [List.mem_cons, List.not_mem_nil, or_false] at h <;> omega

theorem witness_OutsideWindowNotAddressed :
    0x1000 + 4 * Config.bufDepth ≤ 0x1000 + 4 * Config.bufDepth := Nat.le_refl _

/-- A host program with accesses of a register and of BUF's last entry, a core turn and a reset. -/
theorem witness_SafeHostNeverStops :
    State.hostSafe { State.reset with inputs :=
      [commandEvent 1, .host (.read 4 (entryOff 131)), .core, .reset] } = true := by
  have := bufDepth_ge
  simp [State.hostSafe, Event.isAdmitted, Access.isAdmitted, commandEvent, Access.width, Access.off,
    admission_entry (i := 131) (by omega)]

/-- An illegal word, a command to a busy block, and the W1C write that clears. -/
theorem witness_CmdErrIsSticky :
    (∃ s', step ((idleWith regsS).push (commandEvent 0x4)) = .next s' ∧ s'.status.cmdErr = true) ∧
      (∃ s', step ((busyWith .runEncode regsS).push (commandEvent 0x3)) = .next s' ∧ s'.status.cmdErr = true) ∧
      ∃ s', step (State.push { idleWith regsS with status := status306 } (.host (.write 4 0x004 0x100))) = .next s' ∧
        s'.status.cmdErr = false := ⟨⟨_, rfl, rfl⟩, ⟨_, rfl, rfl⟩, _, rfl, rfl⟩

theorem witness_WErrIsSticky :
    (∃ s', step ((busyWith .runEncode regsS).push (.host (.write 4 Reg.hdrMark.off 5))) = .next s' ∧
      s'.status.wErr = true) ∧
      ∃ s', step (State.push { idleWith regsS with status := status306 } (.host (.write 4 0x004 0x200))) = .next s' ∧
        s'.status.wErr = false := ⟨⟨_, rfl, rfl⟩, _, rfl, rfl⟩

theorem witness_DoneSetByCompletion :
    (∃ s', step (busyWith .runMatch regsS) = .next s' ∧ completes (busyWith .runMatch regsS) s') ∧
      ∃ s', step (State.push { idleWith regsS with status := status306 } (commandEvent 0)) = .next s' ∧
        s'.status.doneFlag = true := ⟨⟨_, rfl, .inr rfl, by decide, rfl⟩, _, rfl, rfl⟩

/-- A completing MATCH, an ENCODE that fails, and an acceptance after a completed command. -/
theorem witness_OutcomeHeldUntilAcceptance :
    (∃ s', step (busyWith .runMatch regsS) = .next s' ∧ completes (busyWith .runMatch regsS) s' ∧
      s'.status.success ≠ (busyWith .runMatch regsS).status.success) ∧
      (∃ s', step (busyWith .runEncode { regsS with carrier := 0 }) = .next s' ∧
        completes (busyWith .runEncode { regsS with carrier := 0 }) s') ∧
      ∃ s', step (State.push { idleWith regsS with status := status306 } (commandEvent 1)) = .next s' ∧
        (State.push { idleWith regsS with status := status306 } (commandEvent 1)).acceptsNext :=
  ⟨⟨_, rfl, ⟨.inr rfl, by decide, rfl⟩, by decide⟩, ⟨_, rfl, .inr rfl, by decide, rfl⟩,
    _, rfl, rfl, 1, rfl, by decide, by decide⟩

/-- A running ENCODE that has begun its header mark meets the invariant. -/
theorem running_inv :
    Inv { busyWith .runEncode regsS with txSegs := 1, txlog := [⟨.mark, 7⟩, ⟨.mark, 3400⟩] } where
  bufWf := ⟨.nil, fun _ h => absurd h List.not_mem_nil⟩
  bufWhole := fun _ h => absurd h List.not_mem_nil
  busySeq := by decide
  lenDepth := Nat.zero_le _
  busyFlags := by decide
  successErr := by decide
  results := .inl rfl
  emitting := fun _ => ⟨by decide, by decide, [⟨.mark, 7⟩], by decide⟩

/-- An idle block and a running one, each with a step. -/
theorem witness_OnlyCompletionEndsCommand :
    (∃ s s' : State, Inv s ∧ step s = .next s' ∧ s.seq ≠ .idle) ∧
      ∃ s s' : State, Inv s ∧ step s = .next s' ∧ s.seq = .idle ∧ s'.seq ≠ .idle := by
  refine ⟨⟨_, _, running_inv, rfl, by decide⟩, (idleWith regsS).push (commandEvent 2), _, ?_, rfl, rfl, by decide⟩
  exact ⟨⟨.nil, fun _ h => absurd h List.not_mem_nil⟩, fun _ h => absurd h List.not_mem_nil, by decide, Nat.zero_le _,
    by decide, by decide, .inl rfl, fun h => absurd h (by decide)⟩

theorem witness_BusyFreezesOperands :
    ∃ s', step ((busyWith .runEncode regsS).push (.host (.write 4 Reg.hdrMark.off 5))) = .next s' ∧
      (busyWith .runEncode regsS).status.busy = true ∧
      ((busyWith .runEncode regsS).push (.host (.write 4 Reg.hdrMark.off 5))).inputs.head? ≠ some .reset :=
  ⟨_, rfl, rfl, by decide⟩

theorem witness_OnlyHostWritesBuf :
    ∃ s', step ((idleWith regsS).push (.host (.write 4 (entryOff 131) 5))) = .next s' ∧ s'.buf ≠ (idleWith regsS).buf := by
  have := bufDepth_ge
  refine ⟨{ idleWith regsS with buf := (idleWith regsS).buf.setEntry 131 5 }, ?_, by decide⟩
  show hostStep (.write 4 (entryOff 131) 5) (idleWith regsS) = _
  simp only [hostStep, admission_entry (i := 131) (by omega)]
  rfl

theorem witness_OnlyDecodeWritesResults :
    ∃ s s' : State, step s = .next s' ∧ s'.res ≠ s.res :=
  ⟨{ capture0 [3400, 1334, 600] with seq := .runDecode true false }, _, rfl, by decide⟩

/-- An acceptance of ENCODE, an emission, its completion with nothing left to emit, and a reset. -/
theorem witness_TxLogGrowsByEmission :
    (∃ s', step ((idleWith regsS).push (commandEvent 2)) = .next s' ∧
      ((idleWith regsS).push (commandEvent 2)).writesNext 0x000 0x00000002#32 ∧ (idleWith regsS).status.busy = false) ∧
      (∃ s', step (busyWith .runEncode regsS) = .next s' ∧ (busyWith .runEncode regsS).coreTurn ∧
        (busyWith .runEncode regsS).emitsNext ∧ s'.txlog = [⟨.mark, 3400⟩]) ∧
      (∃ s', step { busyWith .runEncode regsS with txSegs := 4 } = .next s' ∧
        ¬ ({ busyWith .runEncode regsS with txSegs := 4 } : State).emitsNext ∧ s'.txSegs = 4) ∧
      ∃ s', step ((busyWith .runEncode regsS).push .reset) = .next s' ∧
        ((busyWith .runEncode regsS).push .reset).inputs.head? = some .reset := by
  unfold State.emitsNext
  exact ⟨⟨_, rfl, rfl, rfl⟩, ⟨_, rfl, .inr rfl, by decide, by decide⟩, ⟨_, rfl, by decide, by decide⟩, _, rfl, rfl⟩

/-- IRQ-1: it rises with a completion and falls with the W1C write; and it rises with the enable, and falls with an acceptance
and a reset. -/
theorem witness_InterruptFollowsDone :
    (∃ s s' : State, step s = .next s' ∧ s.irq = false ∧ s'.irq = true ∧ completes s s') ∧
      (∃ s s' : State, step s = .next s' ∧ s.irq = false ∧ s'.irq = true ∧ s.doneIe = false) ∧
      (∃ s s' : State, step s = .next s' ∧ s.irq = true ∧ s'.irq = false) ∧
      (∃ s s' : State, step s = .next s' ∧ s.irq = true ∧ s.acceptsNext) ∧
      ∃ s s' : State, step s = .next s' ∧ s.irq = true ∧ s.inputs.head? = some .reset := by
  refine ⟨⟨{ busyWith .runMatch regsS with doneIe := true }, _, rfl, rfl, rfl, .inr rfl, by decide, rfl⟩,
    ⟨State.push { idleWith regsS with status := status306 } (.host (.write 4 Reg.inten.off 1)), _, rfl, rfl, rfl, rfl⟩,
    ⟨State.push { idleWith regsS with status := status306, doneIe := true } (.host (.write 4 Reg.status.off 2)),
      _, rfl, rfl, rfl⟩,
    ⟨State.push { idleWith regsS with status := status306, doneIe := true } (commandEvent 1),
      _, rfl, rfl, rfl, 1, rfl, by decide, by decide⟩,
    State.push { idleWith regsS with status := status306, doneIe := true } .reset, _, rfl, rfl, rfl⟩

/-- A write of an operand register between the submission and the completion of a MATCH. -/
theorem witness_HostStepsDoNotDisturbCommand :
    let s := (busyWith .runMatch regsS).push (.host (.write 4 Reg.meas.off 5))
    ∃ s', s.status.busy = true ∧ s.inputs.head? = some (.host (.write 4 Reg.meas.off 5)) ∧ step s = .next s' ∧
      s'.draws = s.draws ∧ (coreStep s).seq = .idle ∧ s.seq ≠ .idle := ⟨_, rfl, rfl, rfl, rfl, rfl, by decide⟩

theorem witness_EveryStepKeepsInvariant : ∃ s s' : State, Inv s ∧ step s = .next s' :=
  ⟨_, _, running_inv, rfl⟩

end Sys2Proof.Tests
end

section
/-! PROOFS. The flags, TX_SEGS and TXLOG over one step, and the reset values (10_state.md R13, R16, R17, R33, R38). -/

namespace Sys2Proof.Machine

/-! ### The decoder, and the words a submission takes -/

/-- With the reserved bits 0 a word is its operation and its two mode bits (30_encoding.md R60). -/
theorem toNat_of_reservedClear {w : Word} (hlow : w.extractLsb' 4 4 = 0#4) (hhigh : w.extractLsb' 10 22 = 0#22) :
    w.toNat = (opField w).toNat + 256 * (strictBit w).toNat + 512 * (gapreqBit w).toNat := by
  have h1 := congrArg BitVec.toNat hlow
  have h2 := congrArg BitVec.toNat hhigh
  have hw := w.isLt
  simp only [BitVec.extractLsb'_toNat, BitVec.toNat_ofNat, Nat.shiftRight_eq_div_pow] at h1 h2
  simp only [opField, strictBit, gapreqBit, BitVec.extractLsb'_toNat, BitVec.getLsbD, Nat.shiftRight_eq_div_pow,
    Nat.toNat_testBit]
  omega

theorem plainCommand_eq_ok_iff (w : Word) (i j : Instr) :
    plainCommand w i = .ok j ↔ strictBit w = false ∧ gapreqBit w = false ∧ i = j := by
  unfold plainCommand
  cases strictBit w <;> cases gapreqBit w <;> simp

/-- The word of a DECODE as a number: bits 8 and 9 are its mode bits (30_encoding.md R62, R63). -/
theorem toNat_encodeWord_decode (strict gapreq : Bool) :
    (encodeWord (.decode strict gapreq)).toNat = 3 + 256 * strict.toNat + 512 * gapreq.toNat := by
  cases strict <;> cases gapreq <;> rfl

/-- Only the word of an instruction decodes to it (30_encoding.md R64). -/
theorem eq_encodeWord_of_decodeWord {w : Word} {i : Instr} (h : decodeWord w = .ok i) : w = encodeWord i := by
  unfold decodeWord at h
  split at h
  · cases h
  · rename_i hres
    obtain ⟨hlow, hhigh⟩ := not_or.mp hres
    have hw := toNat_of_reservedClear (not_not.mp hlow) (not_not.mp hhigh)
    apply BitVec.eq_of_toNat_eq
    rw [hw]
    split at h
    case h_4 hop =>
      cases h
      rw [hop, toNat_encodeWord_decode]
    case h_5 => cases h
    all_goals
      rename_i hop
      obtain ⟨hs, hg, rfl⟩ := (plainCommand_eq_ok_iff w _ _).mp h
      rw [hop, hs, hg]
      rfl

/-- An instruction's word decodes to it, and no other word does (30_encoding.md R64). -/
theorem decodeWord_eq_ok_iff (w : Word) (i : Instr) : decodeWord w = .ok i ↔ w = encodeWord i := by
  refine ⟨eq_encodeWord_of_decodeWord, ?_⟩
  rintro rfl
  cases i with
  | decode strict gapreq => cases strict <;> cases gapreq <;> rfl
  | nop | matchTol | encode => rfl

theorem legal_encodeWord (i : Instr) : legal (encodeWord i) = true := by
  cases i with
  | nop => exact Laws.LegalWord.nop
  | matchTol => exact Laws.LegalWord.matchTol
  | encode => exact Laws.LegalWord.encode
  | decode strict gapreq => exact Laws.LegalWord.decode strict gapreq

/-- The mode bits are both 0 exactly when bits 9:8 are (30_encoding.md R60). -/
theorem modeBits_eq_zero_iff (w : Word) :
    w.extractLsb' 8 2 = 0#2 ↔ strictBit w = false ∧ gapreqBit w = false := by
  rw [← BitVec.toNat_inj]
  simp only [strictBit, gapreqBit, BitVec.extractLsb'_toNat, BitVec.getLsbD, Nat.shiftRight_eq_div_pow,
    Nat.testBit_eq_decide_div_mod_eq, decide_eq_false_iff_not, BitVec.toNat_ofNat]
  omega

/-- The legal words are those that decode (30_encoding.md R64). -/
theorem legal_iff_decodes (w : Word) : legal w = true ↔ ∃ i, decodeWord w = .ok i := by
  constructor
  · intro h
    simp only [legal, opKnown, lowReservedClear, highReservedClear, modeBitsAllowed, Bool.and_eq_true, Bool.or_eq_true,
      beq_iff_eq, decide_eq_true_eq, modeBits_eq_zero_iff] at h
    obtain ⟨⟨⟨hop, hlow⟩, hhigh⟩, hmode⟩ := h
    have plain (i : Instr) (hne : (opField w).toNat ≠ 3) : plainCommand w i = .ok i := by
      obtain ⟨hs, hg⟩ := hmode.resolve_left fun h3 => hne (congrArg BitVec.toNat h3)
      exact (plainCommand_eq_ok_iff w i i).mpr ⟨hs, hg, rfl⟩
    unfold decodeWord
    rw [if_neg (by simp [hlow, hhigh])]
    change (opField w).toNat ≤ 3 at hop
    obtain h0 | h1 | h2 | h3 : (opField w).toNat = 0 ∨ (opField w).toNat = 1 ∨ (opField w).toNat = 2 ∨
      (opField w).toNat = 3 := by omega
    · exact ⟨.nop, by rw [h0]; exact plain _ (by omega)⟩
    · exact ⟨.matchTol, by rw [h1]; exact plain _ (by omega)⟩
    · exact ⟨.encode, by rw [h2]; exact plain _ (by omega)⟩
    · exact ⟨.decode (strictBit w) (gapreqBit w), by rw [h3]; rfl⟩
  · rintro ⟨i, hi⟩
    rw [(decodeWord_eq_ok_iff w i).mp hi]
    exact legal_encodeWord i

theorem not_legal_of_decodeWord_error {w : Word} {e : DecodeError} (h : decodeWord w = .error e) : legal w = false := by
  rw [← Bool.not_eq_true, legal_iff_decodes]
  rintro ⟨i, hi⟩
  cases h.symm.trans hi

theorem encodeWord_eq_zero_iff (i : Instr) : encodeWord i = 0#32 ↔ i = .nop := by
  cases i with
  | decode strict gapreq => cases strict <;> cases gapreq <;> decide
  | nop | matchTol | encode => decide

theorem encodeWord_eq_two_iff (i : Instr) : encodeWord i = 2#32 ↔ i = .encode := by
  cases i with
  | decode strict gapreq => cases strict <;> cases gapreq <;> decide
  | nop | matchTol | encode => decide

/-! ### The next event -/

@[simp] theorem access_cmd : Reg.cmd.access = .wo := rfl
@[simp] theorem access_status : Reg.status.access = .w1c := rfl

theorem off_inj {x y : Reg} : x.off = y.off ↔ x = y :=
  ⟨fun h => Option.some.inj (by rw [← ofOff_off x, h, ofOff_off]), congrArg Reg.off⟩

/-- CMD stands at offset 0x000 and is the only write-only register (10_state.md section 1). -/
theorem off_eq_cmd_iff (x : Reg) : x.off = 0x000 ↔ x.access = .wo :=
  ⟨fun h => by rw [off_inj.mp (show x.off = Reg.cmd.off from h)]; rfl, fun h => by rw [access_wo h]; rfl⟩

/-- STATUS stands at offset 0x004 and is the only register with W1C fields (10_state.md section 1). -/
theorem off_eq_status_iff (x : Reg) : x.off = 0x004 ↔ x.access = .w1c :=
  ⟨fun h => by rw [off_inj.mp (show x.off = Reg.status.off from h)]; rfl, fun h => by rw [access_w1c h]; rfl⟩

/-- No BUF entry stands at a register's offset (20_memory.md R41). -/
theorem entryOff_ne_off (i : Nat) (x : Reg) : entryOff i ≠ x.off := by
  have := off_lt x
  unfold entryOff
  omega

@[simp] theorem entryOff_ne_cmd (i : Nat) : entryOff i ≠ 0x000 := entryOff_ne_off i .cmd
@[simp] theorem entryOff_ne_status (i : Nat) : entryOff i ≠ 0x004 := entryOff_ne_off i .status

theorem commandEvent_eq (w : Word) : commandEvent w = .host (.write 4 0x000 w) := rfl

theorem writesNext_iff {s : State} {e : Event} (h : s.inputs.head? = some e) (off : Nat) (w : Word) :
    s.writesNext off w ↔ e = .host (.write 4 off w) := by simp [State.writesNext, h]

theorem not_writesNext_of_coreTurn {s : State} (h : s.coreTurn) (off : Nat) (w : Word) : ¬ s.writesNext off w := by
  rcases h with h | h <;> simp [State.writesNext, h]

theorem head?_ne_reset_of_coreTurn {s : State} (h : s.coreTurn) : s.inputs.head? ≠ some .reset := by
  rcases h with h | h <;> simp [h]

theorem coreTurn_iff {s : State} {e : Event} (h : s.inputs.head? = some e) : s.coreTurn ↔ e = .core := by
  have hne : s.inputs ≠ [] := by
    intro hnil
    simp [hnil] at h
  simp [State.coreTurn, h, hne]

/-- The next event is a host write that is dropped while BUSY is 1: of an operand register or of a BUF entry
(20_memory.md R47). -/
def State.frozenWriteNext (s : State) : Prop :=
  (∃ (x : Reg) (w : Word), x.access = .rw ∧ x ≠ .inten ∧ s.writesNext x.off w) ∨
    ∃ (i : Nat) (w : Word), i < Config.bufDepth ∧ s.writesNext (entryOff i) w

theorem frozenWriteNext_reg_iff {s : State} {x : Reg} {w : Word} (h : s.inputs.head? = some (.host (.write 4 x.off w))) :
    s.frozenWriteNext ↔ x.access = .rw ∧ x ≠ .inten := by
  simp [State.frozenWriteNext, writesNext_iff h, off_inj, (entryOff_ne_off _ _).symm, ← and_assoc]

theorem frozenWriteNext_entry {s : State} {i : Nat} {w : Word} (hi : i < Config.bufDepth)
    (h : s.inputs.head? = some (.host (.write 4 (entryOff i) w))) : s.frozenWriteNext :=
  .inr ⟨i, w, hi, h⟩

/-! ### The core's turn -/

@[simp] theorem popped_status (s : State) : s.popped.status = s.status := rfl
@[simp] theorem popped_doneIe (s : State) : s.popped.doneIe = s.doneIe := rfl
@[simp] theorem popped_regs (s : State) : s.popped.regs = s.regs := rfl
@[simp] theorem popped_buf (s : State) : s.popped.buf = s.buf := rfl
@[simp] theorem popped_res (s : State) : s.popped.res = s.res := rfl
@[simp] theorem popped_txSegs (s : State) : s.popped.txSegs = s.txSegs := rfl
@[simp] theorem popped_seq (s : State) : s.popped.seq = s.seq := rfl
@[simp] theorem popped_txlog (s : State) : s.popped.txlog = s.txlog := rfl
@[simp] theorem popped_reads (s : State) : s.popped.reads = s.reads := rfl
@[simp] theorem popped_draws (s : State) : s.popped.draws = s.draws := rfl
@[simp] theorem popped_emitsNext (s : State) : s.popped.emitsNext ↔ s.emitsNext := Iff.rfl

/-- Everything a core step can do (20_memory.md R49, 40_command.md R74): nothing while SEQ is IDLE, one emission of an
ENCODE with a segment left, and otherwise the completion of the running command, in which only a DECODE writes the results
and takes draws. -/
theorem coreStep_cases (s : State) :
    (s.seq = .idle ∧ coreStep s = s) ∨
      (s.seq = .runEncode ∧ s.emitsNext ∧
        ∃ g, (encodeSeq s.regs)[s.txSegs.toNat]? = some g ∧ coreStep s = emit g s) ∨
      (s.seq ≠ .idle ∧ ¬ (s.seq = .runEncode ∧ s.emitsNext) ∧
        ∃ success err res draws, coreStep s = complete success err { s with res := res, draws := draws } ∧
          ((∀ strict gapreq, s.seq ≠ .runDecode strict gapreq) → res = s.res ∧ draws = s.draws)) := by
  unfold coreStep
  cases hq : s.seq with
  | idle => exact .inl ⟨rfl, rfl⟩
  | runMatch => exact .inr (.inr ⟨by simp, by simp, _, _, s.res, s.draws, rfl, fun _ => ⟨rfl, rfl⟩⟩)
  | runEncode =>
    refine .inr ?_
    obtain ⟨h0, hv, he⟩ | ⟨hok, ⟨hlt, he⟩ | ⟨hle, he⟩⟩ := coreEncode_cases s
    · exact .inr ⟨by simp, by simp [State.emitsNext, h0, hv], _, _, s.res, s.draws, he, fun _ => ⟨rfl, rfl⟩⟩
    · exact .inl ⟨rfl, ⟨hok, hlt⟩, _, List.getElem?_eq_getElem _, he⟩
    · exact .inr ⟨by simp, by simp [State.emitsNext, hle], _, _, s.res, s.draws, he, fun _ => ⟨rfl, rfl⟩⟩
  | runDecode strict gapreq =>
    refine .inr (.inr ⟨by simp, by simp, ?_⟩)
    obtain ⟨value, n, consumed, d, -, he⟩ | ⟨e, d, -, he⟩ := coreDecode_cases strict gapreq s
    · exact ⟨_, _, _, _, he, fun h => absurd rfl (h strict gapreq)⟩
    · exact ⟨_, _, _, _, he, fun h => absurd rfl (h strict gapreq)⟩

@[simp] theorem coreStep_cmdErr (s : State) : (coreStep s).status.cmdErr = s.status.cmdErr := by
  obtain ⟨-, he⟩ | ⟨-, -, g, -, he⟩ | ⟨-, -, b, e, r, d, he, -⟩ := coreStep_cases s <;> rw [he] <;> rfl

@[simp] theorem coreStep_wErr (s : State) : (coreStep s).status.wErr = s.status.wErr := by
  obtain ⟨-, he⟩ | ⟨-, -, g, -, he⟩ | ⟨-, -, b, e, r, d, he, -⟩ := coreStep_cases s <;> rw [he] <;> rfl

/-- A core step sets DONE exactly when it takes SEQ from a running command to IDLE (40_command.md R74). -/
theorem coreStep_doneFlag (s : State) :
    (coreStep s).status.doneFlag = true ↔ (s.seq ≠ .idle ∧ (coreStep s).seq = .idle) ∨ s.status.doneFlag = true := by
  obtain ⟨hq, he⟩ | ⟨hq, -, g, -, he⟩ | ⟨hq, -, b, e, r, d, he, -⟩ := coreStep_cases s <;> rw [he] <;> simp [hq]

/-- What the core's turn does to TX_SEGS and TXLOG. -/
theorem coreStep_tx (s : State) :
    (s.seq = .runEncode ∧ s.emitsNext ∧ (coreStep s).seq = .runEncode ∧ (coreStep s).txSegs = s.txSegs + 1 ∧
        ∃ g, (encodeSeq s.regs)[s.txSegs.toNat]? = some g ∧ (coreStep s).txlog = s.txlog ++ [g]) ∨
      (¬ (s.seq = .runEncode ∧ s.emitsNext) ∧ (coreStep s).txSegs = s.txSegs ∧ (coreStep s).txlog = s.txlog) := by
  obtain ⟨hq, he⟩ | ⟨hq, hn, g, hg, he⟩ | ⟨-, hn, b, e, r, d, he, -⟩ := coreStep_cases s <;> rw [he]
  · exact .inr ⟨by simp [hq], rfl, rfl⟩
  · exact .inl ⟨hq, hn, hq, rfl, g, hg, rfl⟩
  · exact .inr ⟨hn, rfl, rfl⟩

/-! ### The statements of 10_state.md -/

/-- Settles O47, by the cases of a step: the bit is set where the word is illegal or refused, and a core step keeps it. -/
theorem cmdErrIsSticky : Obligations.CmdErrIsSticky := by
  intro s s' hs
  cases step_took hs with
  | core h => simp [not_writesNext_of_coreTurn h, head?_ne_reset_of_coreTurn h]
  | reset h => simp [writesNext_iff h, h, Status.reset]
  | illegal w e h hw => simp [writesNext_iff h, commandEvent_eq, not_legal_of_decodeWord_error hw]
  | nop w h hw =>
    obtain rfl := eq_encodeWord_of_decodeWord hw
    simp [writesNext_iff h, h, commandEvent_eq, legal_encodeWord, encodeWord_eq_zero_iff]
  | refused w i h hw hi hb =>
    obtain rfl := eq_encodeWord_of_decodeWord hw
    simp [writesNext_iff h, commandEvent_eq, encodeWord_eq_zero_iff, hi, hb]
  | accepted w i q h hw hi hb hq he =>
    obtain rfl := eq_encodeWord_of_decodeWord hw
    simp [writesNext_iff h, h, commandEvent_eq, legal_encodeWord, hb]
  | clear w h => simp [writesNext_iff h, h, Reg.off]
  | readReg _ h | readEntry _ _ h | droppedEntry _ _ _ h _ | wroteEntry _ _ _ h _ => simp [writesNext_iff h, h]
  | ignored x _ h hx | droppedReg x _ h hx _ _ | wroteReg x _ h hx _ =>
    simp [writesNext_iff h, h, off_eq_cmd_iff, off_eq_status_iff, hx]

/-- Settles O48, by the cases of a step: the bit is set by the two dropped writes, and a performed write was to INTEN or
found BUSY 0. -/
theorem wErrIsSticky : Obligations.WErrIsSticky := by
  intro s s' hs
  change _ ↔ s.status.busy = true ∧ s.frozenWriteNext ∨ _
  cases step_took hs with
  | core h => simp [State.frozenWriteNext, not_writesNext_of_coreTurn h, head?_ne_reset_of_coreTurn h]
  | reset h => simp [State.frozenWriteNext, writesNext_iff h, h, Status.reset]
  | illegal w _ h _ | nop w h _ | refused w _ h _ _ _ | accepted w _ _ h _ _ _ _ _ =>
    simp [frozenWriteNext_reg_iff h, writesNext_iff h, h, commandEvent_eq]
  | clear w h => simp [frozenWriteNext_reg_iff h, writesNext_iff h, h, Reg.off]
  | readReg _ h | readEntry _ _ h => simp [State.frozenWriteNext, writesNext_iff h, h]
  | ignored x _ h hx => simp [frozenWriteNext_reg_iff h, writesNext_iff h, h, off_eq_status_iff, hx]
  | droppedReg x _ h hx hn hb => simp [frozenWriteNext_reg_iff h, hx, hn, hb]
  | wroteReg x _ h hx hb =>
    have hkept : ¬ (s.status.busy = true ∧ s.frozenWriteNext) := by
      simpa [frozenWriteNext_reg_iff h, hx, imp_iff_not_or] using hb
    simp [hkept, writesNext_iff h, h, off_eq_status_iff, hx]
  | droppedEntry _ _ hi h hb => simp [frozenWriteNext_entry hi h, hb]
  | wroteEntry _ _ _ h hb => simp [writesNext_iff h, h, hb]

/-- Settles O49, by the cases of a step: a core step sets DONE exactly when it ends the running command, and an accepted
word is legal and not that of NOP. -/
theorem doneSetByCompletion : Obligations.DoneSetByCompletion := by
  intro s s' hs
  unfold completes State.acceptsNext
  cases step_took hs with
  | core h =>
    have hc : s.coreTurn := h
    simp [coreStep_doneFlag, hc, not_writesNext_of_coreTurn h, head?_ne_reset_of_coreTurn h]
  | reset h => simp [coreTurn_iff h, h, Status.reset]
  | illegal w e h hw =>
    simp [coreTurn_iff h, writesNext_iff h, h, commandEvent_eq, not_legal_of_decodeWord_error hw]
  | nop w h hw =>
    obtain rfl := eq_encodeWord_of_decodeWord hw
    simp [coreTurn_iff h, writesNext_iff h, h, commandEvent_eq, encodeWord_eq_zero_iff]
  | refused w i h hw hi hb => simp [coreTurn_iff h, writesNext_iff h, h, commandEvent_eq, hb]
  | accepted w i q h hw hi hb hq he =>
    obtain rfl := eq_encodeWord_of_decodeWord hw
    simp [coreTurn_iff h, writesNext_iff h, commandEvent_eq, legal_encodeWord, encodeWord_eq_zero_iff, hi, hb]
  | clear w h => simp [coreTurn_iff h, writesNext_iff h, h, Reg.off]
  | readReg _ h | readEntry _ _ h | droppedEntry _ _ _ h _ | wroteEntry _ _ _ h _ =>
    simp [coreTurn_iff h, writesNext_iff h, h]
  | ignored x _ h hx | droppedReg x _ h hx _ _ | wroteReg x _ h hx _ =>
    simp [coreTurn_iff h, writesNext_iff h, h, off_eq_cmd_iff, off_eq_status_iff, hx]

/-- Settles O55, by the cases of a step: the core's turn is `coreStep_tx`, and an accepted word is 2 exactly when its
instruction is ENCODE. -/
theorem txLogGrowsByEmission : Obligations.TxLogGrowsByEmission := by
  intro s s' hs
  cases step_took hs with
  | core h =>
    have hc : s.coreTurn := h
    have hw := not_writesNext_of_coreTurn hc 0x000 0x00000002#32
    have hr := head?_ne_reset_of_coreTurn hc
    obtain ⟨hq, hn, htx⟩ | ⟨hn, htx⟩ := coreStep_tx s.popped
    · exact ⟨(absurd · hw), fun _ _ _ => htx, (absurd · hr), fun _ hne _ => absurd ⟨hc, hq, hn⟩ hne⟩
    · exact ⟨(absurd · hw), fun _ hq he => absurd ⟨hq, he⟩ hn, (absurd · hr), fun _ _ _ => htx⟩
  | reset h => simp [coreTurn_iff h, writesNext_iff h, h]
  | illegal w e h hw =>
    have hne : w ≠ 2#32 := by
      rintro rfl
      cases hw
    simp [coreTurn_iff h, writesNext_iff h, h, commandEvent_eq, hne]
  | nop w h hw =>
    obtain rfl := eq_encodeWord_of_decodeWord hw
    simp [coreTurn_iff h, writesNext_iff h, h, commandEvent_eq, encodeWord_eq_two_iff]
  | refused w i h hw hi hb => simp [coreTurn_iff h, writesNext_iff h, h, commandEvent_eq, hb]
  | accepted w i q h hw hi hb hq he =>
    obtain rfl := eq_encodeWord_of_decodeWord hw
    simp +contextual [coreTurn_iff h, writesNext_iff h, h, commandEvent_eq, encodeWord_eq_two_iff, hb, he]
  | clear w h => simp [coreTurn_iff h, writesNext_iff h, h, Reg.off]
  | readReg _ h | readEntry _ _ h | droppedEntry _ _ _ h _ | wroteEntry _ _ _ h _ =>
    simp [coreTurn_iff h, writesNext_iff h, h]
  | ignored x _ h hx | droppedReg x _ h hx _ _ | wroteReg x _ h hx _ =>
    simp [coreTurn_iff h, writesNext_iff h, h, off_eq_cmd_iff, hx]

theorem resetBlock_atReset (s : State) : (resetBlock s).atReset := by
  refine ⟨rfl, rfl, fun x htp hta => ?_, fun i => rfl, rfl, rfl, rfl, rfl, rfl⟩
  cases x with
  | tolPct => exact absurd rfl htp
  | tolAbs => exact absurd rfl hta
  | status => exact (show Status.reset.word = 0 by decide)
  | _ => rfl

/-- Settles O7: the reset values do not depend on the state before. -/
theorem resetLeavesStatedValues : Obligations.ResetLeavesStatedValues :=
  ⟨resetBlock_atReset State.reset, fun s => ⟨resetBlock s, rfl, resetBlock_atReset s⟩⟩

end Sys2Proof.Machine
end

section
/-! PROOFS. Host writes while BUSY is 0 and while it is 1 (20_memory.md R46, R47). -/

namespace Sys2Proof.Machine

/-! ### The write of each kind of target -/

/-- A host write the port admits is the write of its target, and takes only its own event (20_memory.md R49). -/
theorem step_hostWrite {off : Nat} {t : Target} (h : admission 4 off = .admitted t) (w : Word) (s : State) :
    step (s.push (.host (.write 4 off w))) = hostWrite t w s := by
  simp [step, State.push, hostStep, h]

theorem step_write_reg (x : Reg) (w : Word) (s : State) :
    step (s.push (.host (.write 4 x.off w))) = hostWrite (.reg x) w s := step_hostWrite (admission_reg x) w s

theorem step_write_readOnly {x : Reg} (hx : x.access = .ro) (w : Word) (s : State) :
    step (s.push (.host (.write 4 x.off w))) = .next s := by simp [step_write_reg, hostWrite, hx]

/-- A write of STATUS clears DONE, CMDERR and WERR where the word has a 1, whether BUSY is 0 or 1 (20_memory.md R46, R47). -/
theorem step_write_status (w : Word) (s : State) :
    step (s.push (.host (.write 4 Reg.status.off w))) = .next { s with status := { s.status with
      doneFlag := if w.getLsbD 1 then false else s.status.doneFlag
      cmdErr := if w.getLsbD 8 then false else s.status.cmdErr
      wErr := if w.getLsbD 9 then false else s.status.wErr } } := by
  simp [step_write_reg, hostWrite, clearStatus, Bool.and_comm]

/-- INTEN is written whether BUSY is 0 or 1 (20_memory.md R47). -/
theorem step_write_inten (w : Word) (s : State) :
    step (s.push (.host (.write 4 Reg.inten.off w))) = .next { s with doneIe := w.getLsbD 0 } := by
  simp [step_write_reg, hostWrite, Reg.access, writeReg_inten]

theorem step_write_rw_idle {x : Reg} (hx : x.access = .rw) {s : State} (hb : s.status.busy = false) (w : Word) :
    step (s.push (.host (.write 4 x.off w))) = .next (writeReg x w s) := by simp [step_write_reg, hostWrite, hx, hb]

theorem step_write_operand_busy {x : Reg} (hx : x.access = .rw) (hn : x ≠ .inten) {s : State}
    (hb : s.status.busy = true) (w : Word) : step (s.push (.host (.write 4 x.off w))) = .next (dropWrite s) := by
  simp [step_write_reg, hostWrite, hx, hn, hb]

theorem step_write_entry_idle {i : Nat} (hi : i < Config.bufDepth) {s : State} (hb : s.status.busy = false) (w : Word) :
    step (s.push (.host (.write 4 (entryOff i) w))) = .next { s with buf := s.buf.setEntry i w } := by
  simp [step_hostWrite (admission_entry hi), hostWrite, hb]

theorem step_write_entry_busy {i : Nat} (hi : i < Config.bufDepth) {s : State} (hb : s.status.busy = true) (w : Word) :
    step (s.push (.host (.write 4 (entryOff i) w))) = .next (dropWrite s) := by
  simp [step_hostWrite (admission_entry hi), hostWrite, hb]

/-! ### The written values -/

theorem writeReg_frame (x : Reg) (w : Word) (s : State) :
    writeReg x w s = { s with regs := (writeReg x w s).regs, doneIe := (writeReg x w s).doneIe } := by
  unfold writeReg
  split <;> rfl

/-- A write of BUF_LEN reads back clamped: the 17 used bits hold any value up to BUF_DEPTH (10_state.md R28). -/
theorem readReg_writeReg_bufLen (w : Word) (s : State) :
    (readReg (writeReg .bufLen w s) .bufLen).toNat = min (w.toNat % 2 ^ 17) Config.bufDepth := by
  have hfits : min (w.toNat % 2 ^ 17) Config.bufDepth < 2 ^ 17 := by omega
  change ((clampLen w).setWidth 32).toNat = _
  rw [BitVec.toNat_setWidth_of_le (by decide), clampLen, BitVec.toNat_ofNat, BitVec.toNat_setWidth,
    Nat.mod_eq_of_lt hfits]

@[simp] theorem written_setEntry_same (m : Memory) (i : Nat) (w : Word) : (m.setEntry i w).written i = true := by
  simp [Memory.written]

/-! ### The literal offsets of the register map -/

theorem mem_readOnlyOffsets {off : Nat} (h : off ∈ readOnlyOffsets) : ∃ x : Reg, x.access = .ro ∧ x.off = off := by
  rw [show readOnlyOffsets = (allRegs.filter (fun x => x.access = .ro)).map Reg.off by decide] at h
  simp only [List.mem_map, List.mem_filter, decide_eq_true_eq] at h
  obtain ⟨x, ⟨-, hx⟩, ho⟩ := h
  exact ⟨x, hx, ho⟩

theorem mem_operandOffsets {off : Nat} (h : off ∈ operandOffsets) :
    ∃ x : Reg, x.access = .rw ∧ x ≠ .inten ∧ x.off = off := by
  rw [show operandOffsets = (allRegs.filter (fun x => x.access = .rw ∧ x ≠ .inten)).map Reg.off by decide] at h
  simp only [List.mem_map, List.mem_filter, decide_eq_true_eq] at h
  obtain ⟨x, ⟨-, hx, hn⟩, ho⟩ := h
  exact ⟨x, hx, hn, ho⟩

/-- Each entry of `Operands.writeMap` is one operand register: its offset, and the operands with that register written. -/
theorem mem_writeMap {r : Operands} {w : Word} {p : Nat × Operands} (h : p ∈ r.writeMap w) :
    ∃ x : Reg, x.access = .rw ∧ x ≠ .inten ∧ p = (x.off, r.set x w) := by
  have hmap : r.writeMap w =
      (allRegs.filter (fun x => x.access = .rw ∧ x ≠ .inten ∧ x ≠ .bufLen)).map (fun x => (x.off, r.set x w)) := rfl
  simp only [hmap, List.mem_map, List.mem_filter, decide_eq_true_eq] at h
  obtain ⟨x, ⟨-, hx, hn, -⟩, hp⟩ := h
  exact ⟨x, hx, hn, hp.symm⟩

/-! ### The statements of 20_memory.md -/

/-- Settles O39, target by target: the written register or entry reads back, and the literal offsets are those of the
registers of each kind. -/
theorem hostWriteEffects : Obligations.HostWriteEffects := by
  intro s w hb
  refine ⟨step_write_reg .cmd w s, step_write_status w s, ?bufLen, ?entry, fun x hx => step_write_readOnly hx w s,
    ?readWrite, ?operandMap, step_write_inten w s, ?readOnlyMap⟩
  case bufLen =>
    exact ⟨_, step_write_rw_idle (x := .bufLen) rfl hb w, rfl, readReg_writeReg_bufLen w s⟩
  case entry =>
    intro i hi
    exact ⟨_, step_write_entry_idle hi hb w, rfl, entry_setEntry_same s.buf i w, written_setEntry_same s.buf i w,
      fun j hj => entry_setEntry_ne s.buf w hj⟩
  case readWrite =>
    intro x hx hl
    refine ⟨_, step_write_rw_idle hx hb w, writeReg_frame x w s, ?_, fun y hy => readReg_writeReg_ne hy w s⟩
    have hfits : w.toNat % 2 ^ x.usedBits < 2 ^ 32 := (Nat.mod_le _ _).trans_lt w.isLt
    rw [readReg_writeReg_same hx hl, BitVec.toNat_ofNat, Nat.mod_eq_of_lt hfits]
  case operandMap =>
    intro p hp
    obtain ⟨x, hx, hn, rfl⟩ := mem_writeMap hp
    rw [step_write_rw_idle hx hb, writeReg_operand hn]
  case readOnlyMap =>
    intro off ho
    obtain ⟨x, hx, rfl⟩ := mem_readOnlyOffsets ho
    exact step_write_readOnly hx w s

/-- Settles O40, target by target: operand registers and BUF entries drop the write, STATUS and INTEN take it, and read-only
registers ignore it. -/
theorem busyWritesDropped : Obligations.BusyWritesDropped := by
  intro s w hb
  refine ⟨fun x hx hn => step_write_operand_busy hx hn hb w, fun i hi => step_write_entry_busy hi hb w,
    step_write_status w s, step_write_inten w s, fun x hx => step_write_readOnly hx w s, ?operandMap, ?readOnlyMap⟩
  case operandMap =>
    intro off ho
    obtain ⟨x, hx, hn, rfl⟩ := mem_operandOffsets ho
    exact step_write_operand_busy hx hn hb w
  case readOnlyMap =>
    intro off ho
    obtain ⟨x, hx, rfl⟩ := mem_readOnlyOffsets ho
    exact step_write_readOnly hx w s

end Sys2Proof.Machine
end

section
/-! PROOFS. The legal command words (30_encoding.md R64). -/

namespace Sys2Proof.Machine

/-! ### The words of each row of the opcode table -/

/-- The formula `legal(w)` of 30_encoding.md R64, on the word as a number. -/
theorem legal_iff_toNat (w : Word) : legal w = true ↔
    w.toNat % 16 ≤ 3 ∧ w.toNat / 16 % 16 = 0 ∧ w.toNat / 1024 = 0 ∧ (w.toNat % 16 = 3 ∨ w.toNat / 256 % 4 = 0) := by
  have hw := w.isLt
  simp only [legal, opKnown, lowReservedClear, highReservedClear, modeBitsAllowed, Bool.and_eq_true, Bool.or_eq_true,
    beq_iff_eq, decide_eq_true_eq, ← BitVec.toNat_inj, BitVec.extractLsb'_toNat, BitVec.toNat_ofNat,
    Nat.shiftRight_eq_div_pow]
  omega

/-- A word is its bits under the DECODE row's mask and its two mode bits (30_encoding.md R62 to R64). -/
theorem eq_masked_or_modeBits (w : Word) :
    w = w &&& 0xFFFFFCFF#32 ||| (if strictBit w then 0x00000100#32 else 0#32) |||
      (if gapreqBit w then 0x00000200#32 else 0#32) := by
  have hmask : ∀ i < 32, (0xFFFFFCFF#32).getLsbD i = decide (i ≠ 8 ∧ i ≠ 9) := by decide
  have hstrict : ∀ b : Bool, ∀ i < 32, (if b then 0x00000100#32 else 0#32).getLsbD i = (b && decide (i = 8)) := by
    decide
  have hgapreq : ∀ b : Bool, ∀ i < 32, (if b then 0x00000200#32 else 0#32).getLsbD i = (b && decide (i = 9)) := by
    decide
  apply BitVec.eq_of_getLsbD_eq
  intro i hi
  rw [BitVec.getLsbD_or, BitVec.getLsbD_or, BitVec.getLsbD_and, hmask i hi, hstrict _ i hi, hgapreq _ i hi, strictBit,
    gapreqBit]
  obtain rfl | h8 := eq_or_ne i 8
  · simp
  obtain rfl | h9 := eq_or_ne i 9
  · simp
  · simp [h8, h9]

/-- The DECODE row's match and mask, with STRICT and GAPREQ in bits 8 and 9 (30_encoding.md R64). -/
theorem eq_encodeWord_decode_iff (w : Word) (strict gapreq : Bool) : w = encodeWord (.decode strict gapreq) ↔
    w &&& 0xFFFFFCFF#32 = 0x00000003#32 ∧ w.getLsbD 8 = strict ∧ w.getLsbD 9 = gapreq := by
  constructor
  · rintro rfl
    cases strict <;> cases gapreq <;> decide
  · rintro ⟨hmatch, rfl, rfl⟩
    have hw := eq_masked_or_modeBits w
    rwa [hmatch] at hw

/-- The words of the instructions are the seven of the table (30_encoding.md R64). -/
theorem exists_eq_encodeWord_iff (w : Word) : (∃ i, w = encodeWord i) ↔
    w ∈ [0x00000000#32, 0x00000001#32, 0x00000002#32, 0x00000003#32, 0x00000103#32, 0x00000203#32, 0x00000303#32] := by
  constructor
  · rintro ⟨i, rfl⟩
    cases i with
    | decode strict gapreq => cases strict <;> cases gapreq <;> decide
    | nop | matchTol | encode => decide
  · simp only [List.mem_cons, List.not_mem_nil, or_false]
    rintro (h | h | h | h | h | h | h)
    · exact ⟨.nop, h⟩
    · exact ⟨.matchTol, h⟩
    · exact ⟨.encode, h⟩
    · exact ⟨.decode false false, h⟩
    · exact ⟨.decode true false, h⟩
    · exact ⟨.decode false true, h⟩
    · exact ⟨.decode true true, h⟩

/-! ### The statements of 30_encoding.md -/

/-- Settles O2: a word decodes to an instruction exactly when it is the instruction's word, and the legal words are those
that decode. -/
theorem legalWordsAreExactlySeven : Obligations.LegalWordsAreExactlySeven := by
  refine ⟨legal_iff_toNat, fun w => (legal_iff_decodes w).symm, fun w => decodeWord_eq_ok_iff w .nop,
    fun w => decodeWord_eq_ok_iff w .matchTol, fun w => decodeWord_eq_ok_iff w .encode, ?decodeRow, ?sevenWords⟩
  case decodeRow =>
    intro w strict gapreq
    rw [decodeWord_eq_ok_iff, eq_encodeWord_decode_iff]
  case sevenWords =>
    intro w
    simp only [legal_iff_decodes, decodeWord_eq_ok_iff, exists_eq_encodeWord_iff]

end Sys2Proof.Machine
end

section
/-! PROOFS. Submission, acceptance and refusal of commands, and what moves SEQ (40_command.md R70 to R76). -/

namespace Sys2Proof.Machine

/-! ### The write of CMD -/

theorem step_commandEvent (w : Word) (s : State) : step (s.push (commandEvent w)) = submit w s :=
  step_write_reg .cmd w s

/-- An illegal word is refused (40_command.md R73). -/
theorem submit_illegal {w : Word} (h : legal w = false) (s : State) : submit w s = .next (refuseCommand s) := by
  unfold submit
  split
  · rename_i i hi
    rw [(legal_iff_decodes w).mpr ⟨i, hi⟩] at h
    cases h
  · rfl

/-- An instruction's word runs its meaning (40_command.md R70). -/
theorem submit_encodeWord (i : Instr) (s : State) : submit (encodeWord i) s = exec i s := by
  simp [submit, (decodeWord_eq_ok_iff (encodeWord i) i).mpr rfl]

theorem legal_iff_eq_encodeWord (w : Word) : legal w = true ↔ ∃ i, w = encodeWord i := by
  simp only [legal_iff_decodes, decodeWord_eq_ok_iff]

/-- The fields of a DECODE's word: OP 3 and the mode bits (30_encoding.md R60, R62, R63). -/
theorem fields_encodeWord_decode (strict gapreq : Bool) :
    (encodeWord (.decode strict gapreq)).extractLsb' 0 4 = 3#4 ∧
      (encodeWord (.decode strict gapreq)).getLsbD 8 = strict ∧
      (encodeWord (.decode strict gapreq)).getLsbD 9 = gapreq := by
  cases strict <;> cases gapreq <;> decide

/-- Only NOP's word has OP 0 (30_encoding.md R60). -/
theorem opField_encodeWord_eq_zero_iff (i : Instr) : (encodeWord i).extractLsb' 0 4 = 0#4 ↔ i = .nop := by
  cases i with
  | decode strict gapreq => simp [(fields_encodeWord_decode strict gapreq).1]
  | nop | matchTol | encode => decide

/-! ### Refusal and acceptance -/

theorem submitCommand_busy {s : State} (hb : s.status.busy = true) (q : Sequencer) :
    submitCommand q s = refuseCommand s := if_pos hb

theorem submitCommand_idle {s : State} (hb : s.status.busy = false) (q : Sequencer) :
    submitCommand q s = accept q s := if_neg (by simp [hb])

theorem exec_busy {s : State} (hb : s.status.busy = true) {i : Instr} (hi : i ≠ .nop) :
    exec i s = .next (refuseCommand s) := by
  obtain ⟨rfl, -⟩ | ⟨q, -, -, -, he⟩ := exec_cases i s
  · exact absurd rfl hi
  · rw [he, submitCommand_busy hb]

theorem exec_idle {s : State} (hb : s.status.busy = false) {i : Instr} (hi : i ≠ .nop) :
    ∃ q, exec i s = .next (accept q s) := by
  obtain ⟨rfl, -⟩ | ⟨q, -, -, -, he⟩ := exec_cases i s
  · exact absurd rfl hi
  · exact ⟨q, by rw [he, submitCommand_idle hb]⟩

theorem accept_runEncode (s : State) :
    accept .runEncode s = { s with status := s.status.accepted, seq := .runEncode, txSegs := 0 } := rfl

/-- Acceptance of a command other than ENCODE leaves TX_SEGS (40_command.md R71). -/
theorem accept_of_ne_runEncode {q : Sequencer} (hq : q ≠ .runEncode) (s : State) :
    accept q s = { s with status := s.status.accepted, seq := q } := by
  simp [accept, hq, Status.accepted]

/-- Acceptance lowers the interrupt, DONE being 0 (60_exceptions.md R127). -/
@[simp] theorem accept_irq (q : Sequencer) (s : State) : (accept q s).irq = false := rfl

/-! ### A refusal beside the running command -/

theorem coreEncode_refuseCommand (s : State) : coreEncode (refuseCommand s) = refuseCommand (coreEncode s) := by
  unfold coreEncode
  by_cases hv : s.txSegs = 0 ∧ encodeValid s.regs = false
  · rw [if_pos hv]
    exact if_pos hv
  · rw [if_neg hv]
    refine (if_neg hv).trans ?_
    rw [refuseCommand_regs, refuseCommand_txSegs]
    cases (encodeSeq s.regs)[s.txSegs.toNat]? <;> rfl

theorem coreDecode_refuseCommand (strict gapreq : Bool) (s : State) :
    coreDecode strict gapreq (refuseCommand s) = refuseCommand (coreDecode strict gapreq s) := by
  simp only [coreDecode, refuseCommand_regs, refuseCommand_buf, refuseCommand_draws]
  split <;> rfl

/-- No core step reads or writes CMDERR, so a refusal commutes with it (40_command.md R72). -/
theorem coreStep_refuseCommand (s : State) : coreStep (refuseCommand s) = refuseCommand (coreStep s) := by
  unfold coreStep
  rw [refuseCommand_seq]
  cases s.seq with
  | idle => rfl
  | runMatch => rfl
  | runEncode => exact coreEncode_refuseCommand s
  | runDecode strict gapreq => exact coreDecode_refuseCommand strict gapreq s

/-! ### What moves SEQ -/

/-- The submission of a command's word while BUSY is 0 is an acceptance (40_command.md R70, R71). -/
theorem acceptsNext_of_command {s : State} {i : Instr} (h : s.inputs.head? = some (commandEvent (encodeWord i)))
    (hi : i ≠ .nop) (hb : s.status.busy = false) : s.acceptsNext :=
  ⟨hb, encodeWord i, h, legal_encodeWord i, (encodeWord_eq_zero_iff i).not.mpr hi⟩

/-- A core step leaves SEQ, or completes the running command (40_command.md R74). -/
theorem coreStep_seq (s : State) : (coreStep s).seq = s.seq ∨
    (coreStep s).seq = .idle ∧ (coreStep s).status.busy = false ∧ (coreStep s).status.doneFlag = true := by
  obtain ⟨-, he⟩ | ⟨-, -, g, -, he⟩ | ⟨-, -, b, e, r, d, he, -⟩ := coreStep_cases s <;> rw [he]
  · exact .inl rfl
  · exact .inl rfl
  · exact .inr ⟨rfl, rfl, rfl⟩

/-- Everything a step can do to SEQ: nothing, or what an acceptance, a completion or a reset does (10_state.md R34). -/
theorem step_seq {s s' : State} (hs : step s = .next s') :
    s'.seq = s.seq ∨ (s.acceptsNext ∧ s'.status.busy = true) ∨
      (s.coreTurn ∧ s'.seq = .idle ∧ s'.status.busy = false ∧ s'.status.doneFlag = true) ∨
      (s.inputs.head? = some .reset ∧ s'.seq = .idle) := by
  cases step_took hs with
  | core h => exact (coreStep_seq s.popped).imp id fun hdone => .inr (.inl ⟨h, hdone⟩)
  | reset h => exact .inr (.inr (.inr ⟨h, rfl⟩))
  | accepted w i q h hw hi hb =>
    obtain rfl := eq_encodeWord_of_decodeWord hw
    exact .inr (.inl ⟨acceptsNext_of_command h hi hb, rfl⟩)
  | wroteReg x w => exact .inl (writeReg_seq x w s.popped)
  | readReg | readEntry | illegal | nop | refused | clear | ignored | droppedReg | droppedEntry | wroteEntry =>
    exact .inl rfl

/-! ### The statements of 40_command.md -/

/-- Settles O9: 0x00000000 is the word of NOP, which leaves every state. -/
theorem nopHasNoEffect : Obligations.NopHasNoEffect :=
  fun s => ⟨rfl, (step_commandEvent _ s).trans (submit_encodeWord .nop s)⟩

/-- Settles O10: a busy block refuses, and a refusal commutes with the core step. -/
theorem busyBlockRefusesCommand : Obligations.BusyBlockRefusesCommand :=
  fun s _ hb hi => ⟨exec_busy hb hi, coreStep_refuseCommand s⟩

/-- Settles O11: the block accepts in the command's sequencer state, and DONE is 0 after an acceptance. -/
theorem idleBlockAcceptsCommand : Obligations.IdleBlockAcceptsCommand := by
  intro s hb
  have accepts (q : Sequencer) (hq : q ≠ .runEncode) :
      submitCommand q s = { s with status := s.status.accepted, seq := q } :=
    (submitCommand_idle hb q).trans (accept_of_ne_runEncode hq s)
  refine ⟨congrArg _ (accepts .runMatch (by simp)),
    congrArg _ ((submitCommand_idle hb .runEncode).trans (accept_runEncode s)),
    fun strict gapreq => congrArg _ (accepts (.runDecode strict gapreq) (by simp)), ?irq⟩
  case irq =>
    intro i t hi ht
    obtain ⟨q, he⟩ := exec_idle hb hi
    cases he.symm.trans ht
    exact accept_irq q s

/-- Settles O8: a word that is not illegal is the word of an instruction, whose fields pick the case. -/
theorem submissionTakesFirstCase : Obligations.SubmissionTakesFirstCase := by
  intro s w
  refine (step_commandEvent w s).trans ?_
  cases hl : legal w with
  | false => simp [submit_illegal hl, refuseCommand]
  | true =>
    obtain ⟨i, rfl⟩ := (legal_iff_eq_encodeWord w).mp hl
    rw [submit_encodeWord]
    by_cases hi : i = .nop
    · rw [hi]
      rfl
    cases hb : s.status.busy with
    | true => simp [exec_busy hb hi, refuseCommand, opField_encodeWord_eq_zero_iff, hi]
    | false =>
      obtain ⟨hmatch, hencode, hdecode, -⟩ := idleBlockAcceptsCommand s hb
      cases i with
      | nop => exact absurd rfl hi
      | matchTol => exact hmatch
      | encode => exact hencode
      | decode strict gapreq =>
        obtain ⟨hop, hstrict, hgapreq⟩ := fields_encodeWord_decode strict gapreq
        rw [hop, hstrict, hgapreq]
        exact hdecode strict gapreq

/-- Settles O51, by what moves SEQ: an acceptance finds BUSY 0, so under the invariant SEQ was IDLE. -/
theorem onlyCompletionEndsCommand : Obligations.OnlyCompletionEndsCommand := by
  intro s s' hinv hs
  obtain hkept | ⟨⟨hb, hword⟩, hbusy⟩ | ⟨hcore, hidle, hb, hd⟩ | ⟨hreset, hidle⟩ := step_seq hs
  · exact ⟨fun hi hn => absurd (hkept.trans hi) hn, fun _ => .inl hkept⟩
  · refine ⟨fun _ _ => ⟨⟨hb, hword⟩, hbusy⟩, fun hn => ?_⟩
    have hrun := hinv.busySeq.mpr hn
    rw [hb] at hrun
    cases hrun
  · exact ⟨fun _ hn => absurd hidle hn, fun _ => .inr (.inl ⟨hidle, hcore, hb, hd⟩)⟩
  · exact ⟨fun _ hn => absurd hidle hn, fun _ => .inr (.inr hreset)⟩

end Sys2Proof.Machine
end

section
/-! PROOFS. The frame, its repetition, and ENCODE from acceptance to completion (41_encoder.md R80 to R86). -/

namespace Sys2Proof.Machine

/-! ### The segments of a frame -/

/-- The two segments of data bit `i`: bit n-1 comes first (41_encoder.md R81). -/
theorem dataSegments_getElem? (r : Operands) (v : BitVec 64) {n i : Nat} (hi : i < n) :
    (dataSegments r v n)[2 * (n - 1 - i)]? = some ⟨.mark, r.bitMark⟩ ∧
      (dataSegments r v n)[2 * (n - 1 - i) + 1]? =
        some ⟨.space, if v.getLsbD i then r.oneSpace else r.zeroSpace⟩ := by
  induction n with
  | zero => exact absurd hi (Nat.not_lt_zero i)
  | succ n ih =>
    obtain hlt | rfl := Nat.lt_succ_iff_lt_or_eq.mp hi
    · have hpos : 2 * (n + 1 - 1 - i) = 2 * (n - 1 - i) + 2 := by omega
      rw [hpos]
      exact ih hlt
    · rw [Nat.add_sub_cancel, Nat.sub_self]
      exact ⟨rfl, rfl⟩

/-- Behind the two segments of the header stand the data segments (41_encoder.md R81). -/
theorem frame_getElem?_data (r : Operands) (v : BitVec 64) {n j : Nat} (hj : j < 2 * n) :
    (frame r n v)[j + 2]? = (dataSegments r v n)[j]? :=
  List.getElem?_append_left (by simpa using hj)

/-- Behind the data segments stand the footer mark and the gap (41_encoder.md R81). -/
theorem frame_getElem?_footer (r : Operands) (v : BitVec 64) (n j : Nat) :
    (frame r n v)[2 * n + 2 + j]? = ([⟨.mark, r.ftrMark⟩, ⟨.space, r.minGap⟩] : List Segment)[j]? := by
  rw [frame, List.getElem?_append_right (by simp)]
  congr 1
  simp

/-- The space of data bit `i` in the frame (41_encoder.md R81). -/
theorem frame_getElem?_bitSpace (r : Operands) (v : BitVec 64) {n i : Nat} (hi : i < n) :
    (frame r n v)[3 + 2 * (n - 1 - i)]? = some ⟨.space, if v.getLsbD i then r.oneSpace else r.zeroSpace⟩ := by
  rw [show 3 + 2 * (n - 1 - i) = 2 * (n - 1 - i) + 1 + 2 by omega, frame_getElem?_data r v (by omega)]
  exact (dataSegments_getElem? r v hi).2

/-- The mark of data bit `i` in the frame (41_encoder.md R81). -/
theorem frame_getElem?_bitMark (r : Operands) (v : BitVec 64) {n i : Nat} (hi : i < n) :
    (frame r n v)[2 + 2 * (n - 1 - i)]? = some ⟨.mark, r.bitMark⟩ := by
  rw [Nat.add_comm, frame_getElem?_data r v (by omega)]
  exact (dataSegments_getElem? r v hi).1

/-- The data segments read only bits n-1 to 0 of the payload (41_encoder.md R85). -/
theorem dataSegments_congr (r : Operands) {v w : BitVec 64} {n : Nat} (h : ∀ i < n, v.getLsbD i = w.getLsbD i) :
    dataSegments r v n = dataSegments r w n := by
  induction n with
  | zero => rfl
  | succ n ih =>
    rw [dataSegments, dataSegments, h n n.lt_succ_self, ih fun i hi => h i (Nat.lt_succ_of_lt hi)]

/-- When the two spaces differ, a frame determines each bit it sends (41_encoder.md R86). -/
theorem getLsbD_of_frame_eq {r : Operands} (hne : r.oneSpace ≠ r.zeroSpace) {n : Nat} {v w : BitVec 64}
    (h : frame r n v = frame r n w) {i : Nat} (hi : i < n) : v.getLsbD i = w.getLsbD i := by
  have hsegment := frame_getElem?_bitSpace r v hi
  rw [h, frame_getElem?_bitSpace r w hi] at hsegment
  have hspace : (if w.getLsbD i then r.oneSpace else r.zeroSpace) = if v.getLsbD i then r.oneSpace else r.zeroSpace := by
    simpa using hsegment
  cases hv : v.getLsbD i <;> cases hw : w.getLsbD i <;> simp [hv, hw, hne, hne.symm] at hspace ⊢

/-! ### The repetition of the frame -/

/-- Element `k` of `n` copies of a list is element `k` mod its length. -/
theorem getElem?_flatten_replicate {α : Type} (l : List α) {n k : Nat} (hk : k < n * l.length) :
    (List.replicate n l).flatten[k]? = l[k % l.length]? := by
  induction n generalizing k with
  | zero => omega
  | succ n ih =>
    rw [List.replicate_succ, List.flatten_cons]
    obtain hlt | hle := Nat.lt_or_ge k l.length
    · rw [List.getElem?_append_left hlt, Nat.mod_eq_of_lt hlt]
    · rw [Nat.succ_mul] at hk
      rw [List.getElem?_append_right hle, ih (by omega), Nat.mod_eq_sub_mod hle]

/-! ### The core steps of ENCODE -/

theorem coreStep_runEncode {s : State} (hq : s.seq = .runEncode) : coreStep s = coreEncode s := by
  rw [coreStep, hq]

/-- A run of the core ends with its last core step. -/
theorem coreSteps_succ (k : Nat) (s : State) : coreSteps (k + 1) s = coreStep (coreSteps k s) := by
  induction k generalizing s with
  | zero => rfl
  | succ k ih => exact ih (coreStep s)

/-- The first core step of an ENCODE whose operands are not valid completes it (41_encoder.md R83). -/
theorem coreStep_encode_invalid {s : State} (hq : s.seq = .runEncode) (h0 : s.txSegs = 0)
    (hv : encodeValid s.regs = false) : coreStep s = complete false .configError s :=
  (coreStep_runEncode hq).trans (if_pos ⟨h0, hv⟩)

/-- A core step of a valid ENCODE with a segment left emits it (41_encoder.md R83). -/
theorem coreStep_encode_emit {s : State} (hq : s.seq = .runEncode) (hv : encodeValid s.regs = true) {g : Segment}
    (hg : (encodeSeq s.regs)[s.txSegs.toNat]? = some g) : coreStep s = emit g s := by
  rw [coreStep_runEncode hq, coreEncode, if_neg (by simp [hv]), hg]

/-- The core step of a valid ENCODE with no segment left completes it (41_encoder.md R83). -/
theorem coreStep_encode_done {s : State} (hq : s.seq = .runEncode) (hv : encodeValid s.regs = true)
    (hn : segmentCount s.regs ≤ s.txSegs.toNat) : coreStep s = complete true .none s := by
  have hnone : (encodeSeq s.regs)[s.txSegs.toNat]? = none := List.getElem?_eq_none (by simpa using hn)
  rw [coreStep_runEncode hq, coreEncode, if_neg (by simp [hv]), hnone]

/-- The state of an ENCODE, started in `t`, that has emitted the first `k` segments of `EncodeSeq`. -/
def afterEmission (k : Nat) (t : State) : State :=
  { t with txlog := t.txlog ++ (encodeSeq t.regs).take k, txSegs := BitVec.ofNat 32 k }

/-- TX_SEGS counts the emitted segments without wrapping. -/
theorem afterEmission_txSegs_toNat {k : Nat} {t : State} (hk : k ≤ segmentCount t.regs) :
    (afterEmission k t).txSegs.toNat = k :=
  Nat.mod_eq_of_lt (by have := segmentCount_lt t.regs; omega)

theorem afterEmission_zero {t : State} (h0 : t.txSegs = 0) : afterEmission 0 t = t := by
  cases t
  cases h0
  simp [afterEmission]

/-- After all N segments TXLOG has grown by the whole of `EncodeSeq`. -/
theorem afterEmission_segmentCount (t : State) : afterEmission (segmentCount t.regs) t =
    { t with txlog := t.txlog ++ encodeSeq t.regs, txSegs := BitVec.ofNat 32 (segmentCount t.regs) } := by
  rw [afterEmission, List.take_of_length_le (encodeSeq_length t.regs).le]

theorem emit_afterEmission {k : Nat} {t : State} {g : Segment} (hg : (encodeSeq t.regs)[k]? = some g) :
    emit g (afterEmission k t) = afterEmission (k + 1) t := by
  simp [emit, afterEmission, List.take_add_one, hg, BitVec.ofNat_add]

/-- After `k` core steps a valid ENCODE has emitted the first `k` segments of `EncodeSeq` (41_encoder.md R83). -/
theorem coreSteps_encode {t : State} (hq : t.seq = .runEncode) (h0 : t.txSegs = 0) (hv : encodeValid t.regs = true)
    {k : Nat} (hk : k ≤ segmentCount t.regs) : coreSteps k t = afterEmission k t := by
  induction k with
  | zero => exact (afterEmission_zero h0).symm
  | succ k ih =>
    have hle := Nat.le_of_succ_le hk
    have hlt : k < (encodeSeq t.regs).length := by simpa using hk
    have hg := List.getElem?_eq_getElem hlt
    calc coreSteps (k + 1) t
      _ = coreStep (afterEmission k t) := by rw [coreSteps_succ, ih hle]
      _ = emit (encodeSeq t.regs)[k] (afterEmission k t) :=
        coreStep_encode_emit (s := afterEmission k t) hq hv ((congrArg _ (afterEmission_txSegs_toNat hle)).trans hg)
      _ = afterEmission (k + 1) t := emit_afterEmission hg

/-- One core step after the last emission a valid ENCODE completes (41_encoder.md R83). -/
theorem coreSteps_encode_done {t : State} (hq : t.seq = .runEncode) (h0 : t.txSegs = 0)
    (hv : encodeValid t.regs = true) :
    coreSteps (segmentCount t.regs + 1) t = complete true .none (afterEmission (segmentCount t.regs) t) := by
  rw [coreSteps_succ, coreSteps_encode hq h0 hv le_rfl]
  exact coreStep_encode_done (s := afterEmission _ t) hq hv (afterEmission_txSegs_toNat le_rfl).ge

/-! ### The statements of 41_encoder.md -/

/-- Settles O19, by the place of each part of the frame. -/
theorem frameLayout : Obligations.FrameLayout := fun r n v =>
  ⟨frame_length r n v, rfl, rfl, fun _ hi => ⟨frame_getElem?_bitMark r v hi, frame_getElem?_bitSpace r v hi⟩,
    frame_getElem?_footer r v n 0, frame_getElem?_footer r v n 1⟩

/-- Settles O20: `EncodeSeq` is a flattened list of copies of one frame. -/
theorem encodeSeqRepeatsFrame : Obligations.EncodeSeqRepeatsFrame := by
  refine fun r => ⟨encodeSeq_length r, fun hn => ?bound, fun k hk => ?segment⟩
  case bound =>
    rw [encodeSeq_length]
    exact Nat.mul_le_mul r.repeatCount.isLt (by omega)
  case segment =>
    rw [encodeSeq, getElem?_flatten_replicate _ (by simpa using hk), frame_length]

/-- Settles O21: acceptance starts the run of core steps with TX_SEGS 0. -/
theorem encodeEmitsWholeSequence : Obligations.EncodeEmitsWholeSequence := by
  intro s hb
  have hseq : (accept .runEncode s).seq = .runEncode := rfl
  have hsegs : (accept .runEncode s).txSegs = 0 := rfl
  refine ⟨accept .runEncode s, congrArg _ (submitCommand_idle hb .runEncode), fun hv => ?valid, fun hv => ?invalid⟩
  case valid =>
    have hvalid := (encodeValid_iff s.regs).mpr hv
    refine ⟨fun _ hk => coreSteps_encode hseq hsegs hvalid hk, (coreSteps_encode_done hseq hsegs hvalid).trans ?_⟩
    rw [afterEmission_segmentCount]
    rfl
  case invalid =>
    have hinvalid := Bool.eq_false_iff.mpr (mt (encodeValid_iff s.regs).mp hv)
    exact coreStep_encode_invalid hseq hsegs hinvalid

/-- Settles O22: the frame reads only the low n bits, and the check does not read PAYLOAD. -/
theorem payloadTruncatedSilently : Obligations.PayloadTruncatedSilently := by
  refine ⟨fun r n v hn => ?_, fun _ _ _ => rfl⟩
  have hlow (i : Nat) (hi : i < n) : v.getLsbD i = (BitVec.ofNat 64 (v.toNat % 2 ^ n)).getLsbD i := by
    rw [BitVec.getLsbD_ofNat, Nat.testBit_mod_two_pow, BitVec.testBit_toNat]
    simp [hi, hi.trans_le hn]
  rw [frame, frame, dataSegments_congr r hlow]

/-- Settles O23: a frame of 64 bits determines every bit, and the check reads n only as n ≤ 64. -/
theorem bitCountLimits : Obligations.BitCountLimits := by
  refine ⟨fun _ _ => rfl, fun r v w hne h => ?injective, fun r hkhz hlo hhi => ?limit, fun s hq h0 hn => ?above⟩
  case injective => exact BitVec.eq_of_getLsbD_eq fun i hi => getLsbD_of_frame_eq hne h hi
  case limit =>
    rw [encodeValid_iff]
    exact and_iff_left ⟨hkhz, hlo, hhi⟩
  case above =>
    refine coreStep_encode_invalid hq h0 (Bool.eq_false_iff.mpr fun hv => ?_)
    exact hn.not_ge ((encodeValid_iff s.regs).mp hv).1

end Sys2Proof.Machine
end

section
/-! PROOFS. What DECODE's checks see, check by check, and the end of each DECODE (42_decoder.md R91 to R102). -/

namespace Sys2Proof.Machine

/-! ### The entries that the checks read -/

/-- A read of the entry at distance `j` from OFFSET, the entries before it having been read once each. -/
theorem readEntry_seen (s : State) (j : Nat) :
    s.buf.readEntry (s.regs.offset.toNat + j) (s.drawAfter j) = (s.seen j, s.drawAfter (j + 1)) := rfl

/-- The read of the header mark (42_decoder.md R94). -/
@[simp] theorem readEntry_hdrMark (s : State) :
    s.buf.readEntry s.regs.offset.toNat s.draws = (s.seen 0, s.drawAfter 1) := rfl

/-- The read of the header space (42_decoder.md R94). -/
@[simp] theorem readEntry_hdrSpace (s : State) :
    s.buf.readEntry (s.regs.offset.toNat + 1) (s.drawAfter 1) = (s.seen 1, s.drawAfter 2) := rfl

/-- The read of the mark of data bit `k`, and for `k` = n of the footer mark (42_decoder.md R95, R97). -/
@[simp] theorem readEntry_mark (s : State) (k : Nat) :
    s.buf.readEntry (s.regs.offset.toNat + 2 + 2 * k) (s.drawAfter (2 + 2 * k)) =
      (s.seen (2 + 2 * k), s.drawAfter (3 + 2 * k)) := by
  rw [Nat.add_assoc, readEntry_seen, show 2 + 2 * k + 1 = 3 + 2 * k by omega]

/-- The read of the space of data bit `k`, and for `k` = n of the gap (42_decoder.md R96, R98). -/
@[simp] theorem readEntry_space (s : State) (k : Nat) :
    s.buf.readEntry (s.regs.offset.toNat + 3 + 2 * k) (s.drawAfter (3 + 2 * k)) =
      (s.seen (3 + 2 * k), s.drawAfter (4 + 2 * k)) := by
  rw [Nat.add_assoc, readEntry_seen, show 3 + 2 * k + 1 = 4 + 2 * k by omega]

/-! ### The checks before BUF is read -/

theorem avail_lt_need_iff (r : Operands) :
    r.avail < r.need ↔ r.bufLen.toNat < r.offset.toNat + (2 + 2 * r.argNbits.toNat + 1) := by
  unfold Operands.avail Operands.need
  split <;> omega

/-- The gap entry is present when it lies below BUF_LEN (42_decoder.md R98). -/
theorem gapPresent_iff (r : Operands) :
    r.gapPresent = true ↔ r.offset.toNat + 3 + 2 * r.argNbits.toNat < r.bufLen.toNat := by
  unfold Operands.gapPresent Operands.avail Operands.need
  rw [decide_eq_true_iff]
  split <;> omega

theorem decodeFrame_strictLength {r : Operands} (h : r.argNbits ≠ r.descNbits) (gapreq : Bool) (m : Memory) (draw : Nat) :
    decodeFrame true gapreq r m draw = (.failure .strictLengthMismatch, draw) := if_pos ⟨rfl, h⟩

section
variable {strict gapreq : Bool} {r : Operands} (hstrict : strict = true → r.argNbits = r.descNbits)
include hstrict

theorem strictCheck_passes : ¬ (strict = true ∧ r.argNbits ≠ r.descNbits) := fun h => h.2 (hstrict h.1)

theorem decodeFrame_tooManyBits (hn : 64 < r.argNbits.toNat) (m : Memory) (draw : Nat) :
    decodeFrame strict gapreq r m draw = (.failure .configError, draw) := by
  rw [decodeFrame, if_neg (strictCheck_passes hstrict), if_pos hn]

theorem decodeFrame_shortBuffer (hn : r.argNbits.toNat ≤ 64)
    (hshort : r.avail < r.need ∨ gapreq = true ∧ r.gapPresent = false) (m : Memory) (draw : Nat) :
    decodeFrame strict gapreq r m draw = (.failure .shortBuffer, draw) := by
  rw [decodeFrame, if_neg (strictCheck_passes hstrict), if_neg hn.not_gt]
  by_cases hframe : r.avail < r.need
  · rw [if_pos hframe]
  · rw [if_neg hframe, if_pos (hshort.resolve_left hframe)]

end

/-- When the checks before the header pass, BUF decides (42_decoder.md R91 to R93). -/
theorem decodeFrame_of_frameFits {strict gapreq : Bool} {r : Operands} (h : r.frameFits strict gapreq) (m : Memory)
    (draw : Nat) : decodeFrame strict gapreq r m draw = decodeEntries r m draw := by
  obtain ⟨hstrict, hn, hframe, hgap⟩ := h
  have hgapOk : ¬ (gapreq = true ∧ r.gapPresent = false) := by
    rw [← Bool.not_eq_true, gapPresent_iff]
    exact fun ⟨hreq, habsent⟩ => habsent (by have := hgap hreq; omega)
  have hlong : ¬ r.avail < r.need := by
    rw [avail_lt_need_iff]
    omega
  rw [decodeFrame, if_neg (strictCheck_passes hstrict), if_neg hn.not_gt, if_neg hlong, if_neg hgapOk]

/-! ### The data bits -/

/-- A shifted-in 1 or 0, as the decoder's loop writes it (42_decoder.md R96). -/
theorem shiftLeft_one_or_one (v : BitVec 64) : v <<< 1 ||| 1#64 = v.shiftConcat true := by
  ext i hi
  cases i <;> simp [BitVec.getElem_shiftConcat]

theorem shiftLeft_one (v : BitVec 64) : v <<< 1 = v.shiftConcat false := by
  ext i hi
  simp [BitVec.getElem_shiftConcat]

/-- The value of the first `k` data bits, most significant first: a bit is 1 when its space matches ONE_SPACE
(42_decoder.md R96). -/
def State.valueSeen (s : State) : Nat → BitVec 64
  | 0 => 0#64
  | k + 1 => (s.valueSeen k).shiftConcat (s.regs.matches (s.seen (3 + 2 * k)) s.regs.oneSpace)

theorem getLsbD_valueSeen (s : State) {k j : Nat} (hk : k ≤ 64) (hj : j < k) :
    (s.valueSeen k).getLsbD (k - 1 - j) = s.regs.matches (s.seen (3 + 2 * j)) s.regs.oneSpace := by
  induction k with
  | zero => omega
  | succ k ih =>
    rw [State.valueSeen, BitVec.getLsbD_shiftConcat, decide_eq_true (by omega), Bool.true_and]
    obtain hlt | rfl := Nat.lt_succ_iff_lt_or_eq.mp hj
    · rw [if_neg (by omega), show k + 1 - 1 - j - 1 = k - 1 - j by omega]
      exact ih (Nat.le_of_succ_le hk) hlt
    · rw [if_pos (by omega)]

theorem valueSeen_lt (s : State) {k : Nat} (hk : k ≤ 64) : (s.valueSeen k).toNat < 2 ^ k := by
  induction k with
  | zero => exact Nat.zero_lt_one
  | succ k ih => exact BitVec.toNat_shiftConcat_lt_of_lt hk (ih (Nat.le_of_succ_le hk))

section
variable {s : State} {k : Nat}

/-- A data bit whose pair matches is shifted in, and the loop goes on behind it (42_decoder.md R95, R96). -/
theorem decodeBits_bitOk (h : s.bitOk k) (left : Nat) :
    decodeBits s.regs s.buf s.regs.offset.toNat (left + 1) k (s.valueSeen k) (s.drawAfter (2 + 2 * k)) =
      decodeBits s.regs s.buf s.regs.offset.toNat left (k + 1) (s.valueSeen (k + 1)) (s.drawAfter (4 + 2 * k)) := by
  obtain ⟨hmark, hspace⟩ := h
  rw [State.bitMarkOk] at hmark
  simp only [decodeBits, readEntry_mark, readEntry_space, hmark, if_true, State.valueSeen]
  by_cases hone : s.regs.matches (s.seen (3 + 2 * k)) s.regs.oneSpace = true
  · rw [if_pos hone, hone, shiftLeft_one_or_one]
  · rw [if_neg hone, if_pos (hspace.resolve_left hone), shiftLeft_one, Bool.eq_false_iff.mpr hone]

/-- When the first `k` data bits match, the loop reaches bit `k` with their value (42_decoder.md R95, R96). -/
theorem decodeBits_reaches (h : ∀ j < k, s.bitOk j) (left : Nat) :
    decodeBits s.regs s.buf s.regs.offset.toNat (left + k) 0 0#64 (s.drawAfter 2) =
      decodeBits s.regs s.buf s.regs.offset.toNat left k (s.valueSeen k) (s.drawAfter (2 + 2 * k)) := by
  induction k generalizing left with
  | zero => rfl
  | succ k ih =>
    rw [← Nat.succ_add_eq_add_succ, ih (fun j hj => h j (Nat.lt_succ_of_lt hj)), decodeBits_bitOk (h k k.lt_succ_self),
      show 2 + 2 * (k + 1) = 4 + 2 * k by omega]

/-- When all data bits match, the loop returns their value (42_decoder.md R96). -/
theorem decodeBits_all (h : ∀ j < k, s.bitOk j) :
    decodeBits s.regs s.buf s.regs.offset.toNat k 0 0#64 (s.drawAfter 2) =
      (some (s.valueSeen k), s.drawAfter (2 + 2 * k)) := by
  simpa [decodeBits] using decodeBits_reaches h 0

/-- The loop ends at a bit whose mark fails (42_decoder.md R95). -/
theorem decodeBits_badMark (hmark : ¬ s.bitMarkOk k) (left : Nat) (value : BitVec 64) :
    decodeBits s.regs s.buf s.regs.offset.toNat (left + 1) k value (s.drawAfter (2 + 2 * k)) =
      (none, s.drawAfter (3 + 2 * k)) := by
  rw [decodeBits, readEntry_mark]
  exact if_neg hmark

/-- The loop ends at a bit whose space matches neither (42_decoder.md R96). -/
theorem decodeBits_badSpace (hmark : s.bitMarkOk k) (hspace : ¬ s.bitSpaceOk k) (left : Nat) (value : BitVec 64) :
    decodeBits s.regs s.buf s.regs.offset.toNat (left + 1) k value (s.drawAfter (2 + 2 * k)) =
      (none, s.drawAfter (4 + 2 * k)) := by
  obtain ⟨hone, hzero⟩ := not_or.mp hspace
  rw [State.bitMarkOk] at hmark
  simp only [decodeBits, readEntry_mark, readEntry_space, hmark, if_true]
  rw [if_neg hone, if_neg hzero]

end

/-! ### The checks that read BUF -/

section
variable {s : State}

theorem decodeEntries_badHdrMark (h : s.regs.matches (s.seen 0) s.regs.hdrMark = false) :
    decodeEntries s.regs s.buf s.draws = (.failure .headerMismatch, s.drawAfter 1) := by
  simp [decodeEntries, h]

theorem decodeEntries_badHdrSpace (hmark : s.regs.matches (s.seen 0) s.regs.hdrMark = true)
    (hspace : s.regs.matches (s.seen 1) s.regs.hdrSpace = false) :
    decodeEntries s.regs s.buf s.draws = (.failure .headerMismatch, s.drawAfter 2) := by
  simp [decodeEntries, hmark, hspace]

variable (hheader : s.headerOk)
include hheader

/-- When the first `k` data bits match and the loop ends at bit `k`, DECODE fails there (42_decoder.md R95, R96). -/
theorem decodeEntries_badBit {k d : Nat} (hk : k < s.regs.argNbits.toNat) (hbefore : ∀ j < k, s.bitOk j)
    (hbit : ∀ left, decodeBits s.regs s.buf s.regs.offset.toNat (left + 1) k (s.valueSeen k) (s.drawAfter (2 + 2 * k)) =
      (none, d)) :
    decodeEntries s.regs s.buf s.draws = (.failure .bitMismatch, d) := by
  have hbits : decodeBits s.regs s.buf s.regs.offset.toNat s.regs.argNbits.toNat 0 0#64 (s.drawAfter 2) = (none, d) := by
    rw [show s.regs.argNbits.toNat = s.regs.argNbits.toNat - (k + 1) + 1 + k by omega, decodeBits_reaches hbefore, hbit]
  simp [decodeEntries, hheader.1, hheader.2, hbits]

variable (hbits : ∀ k < s.regs.argNbits.toNat, s.bitOk k)
include hbits

theorem decodeEntries_badFtrMark
    (hftr : s.regs.matches (s.seen (2 + 2 * s.regs.argNbits.toNat)) s.regs.ftrMark = false) :
    decodeEntries s.regs s.buf s.draws = (.failure .footerMismatch, s.drawAfter (3 + 2 * s.regs.argNbits.toNat)) := by
  simp [decodeEntries, hheader.1, hheader.2, decodeBits_all hbits, hftr]

variable (hftr : s.regs.matches (s.seen (2 + 2 * s.regs.argNbits.toNat)) s.regs.ftrMark = true)
include hftr

theorem decodeEntries_badGap (hpresent : s.regs.gapPresent = true)
    (hgap : s.regs.atLeast (s.seen (3 + 2 * s.regs.argNbits.toNat)) s.regs.minGap = false) :
    decodeEntries s.regs s.buf s.draws = (.failure .footerMismatch, s.drawAfter (4 + 2 * s.regs.argNbits.toNat)) := by
  simp [decodeEntries, hheader.1, hheader.2, decodeBits_all hbits, hftr, hpresent, hgap]

/-- When every check passes, the value of all data bits is reported; an absent gap is not read (42_decoder.md R98, R99). -/
theorem decodeEntries_success (hgap : s.regs.gapPresent = true →
      s.regs.atLeast (s.seen (3 + 2 * s.regs.argNbits.toNat)) s.regs.minGap = true) :
    decodeEntries s.regs s.buf s.draws =
      (.success (s.valueSeen s.regs.argNbits.toNat) s.regs.argNbits.toNat s.regs.need,
        if s.regs.gapPresent = true then s.drawAfter (4 + 2 * s.regs.argNbits.toNat)
        else s.drawAfter (3 + 2 * s.regs.argNbits.toNat)) := by
  by_cases hpresent : s.regs.gapPresent = true
  · simp [decodeEntries, hheader.1, hheader.2, decodeBits_all hbits, hftr, hpresent, hgap hpresent]
  · simp [decodeEntries, hheader.1, hheader.2, decodeBits_all hbits, hftr, hpresent]

end

/-- Each way out of the checks that read BUF is a success or names its error (42_decoder.md R94 to R98). -/
theorem decodeEntries_ne_failure_none (r : Operands) (m : Memory) (draw : Nat) :
    (decodeEntries r m draw).1 ≠ .failure .none := by
  unfold decodeEntries
  dsimp only
  repeat' split
  all_goals simp

/-- Every failure has an error code (60_exceptions.md R122). -/
theorem decodeFrame_ne_failure_none (strict gapreq : Bool) (r : Operands) (m : Memory) (draw : Nat) :
    (decodeFrame strict gapreq r m draw).1 ≠ .failure .none := by
  unfold decodeFrame
  split_ifs
  case neg => exact decodeEntries_ne_failure_none r m draw
  all_goals simp

/-! ### DESC_NBITS without STRICT -/

theorem decodeBits_descNbits (r : Operands) (b : BitVec 8) (m : Memory) (p left k : Nat) (value : BitVec 64) (draw : Nat) :
    decodeBits { r with descNbits := b } m p left k value draw = decodeBits r m p left k value draw := by
  induction left generalizing k value draw with
  | zero => rfl
  | succ left ih =>
    simp only [decodeBits, ih]
    rfl

theorem decodeEntries_descNbits (r : Operands) (b : BitVec 8) (m : Memory) (draw : Nat) :
    decodeEntries { r with descNbits := b } m draw = decodeEntries r m draw := by
  simp only [decodeEntries, decodeBits_descNbits]
  rfl

/-- Without STRICT the checks do not read DESC_NBITS (42_decoder.md R91). -/
theorem decodeFrame_lenient_descNbits (gapreq : Bool) (r : Operands) (b : BitVec 8) (m : Memory) (draw : Nat) :
    decodeFrame false gapreq { r with descNbits := b } m draw = decodeFrame false gapreq r m draw := by
  simp only [decodeFrame, decodeEntries_descNbits, Bool.false_eq_true, false_and, if_false]
  rfl

/-! ### DECODE from acceptance to completion -/

theorem coreStep_runDecode {s : State} {strict gapreq : Bool} (hq : s.seq = .runDecode strict gapreq) :
    coreStep s = coreDecode strict gapreq s := by
  rw [coreStep, hq]

theorem exec_decode_idle {s : State} (hb : s.status.busy = false) (strict gapreq : Bool) :
    exec (.decode strict gapreq) s = .next (accept (.runDecode strict gapreq) s) :=
  congrArg _ (submitCommand_idle hb _)

/-- An idle block runs a DECODE whose checks fail to its end in one core step (42_decoder.md R90, R100). -/
theorem exec_decode_fails {s : State} {strict gapreq : Bool} {e : ErrCode} {d : Nat} (hb : s.status.busy = false)
    (h : decodeFrame strict gapreq s.regs s.buf s.draws = (.failure e, d)) :
    ∃ t, exec (.decode strict gapreq) s = .next t ∧ coreStep t = s.decodeFailed e d := by
  refine ⟨_, exec_decode_idle hb strict gapreq, ?_⟩
  rw [coreStep_runDecode (accept_seq _ s), coreDecode, accept_regs, accept_buf, accept_draws, h]
  rfl

/-- The same, when the checks that read BUF fail (42_decoder.md R94 to R98). -/
theorem exec_decode_fails_of_entries {s : State} {strict gapreq : Bool} {e : ErrCode} {d : Nat}
    (hb : s.status.busy = false) (hfits : s.regs.frameFits strict gapreq)
    (h : decodeEntries s.regs s.buf s.draws = (.failure e, d)) :
    ∃ t, exec (.decode strict gapreq) s = .next t ∧ coreStep t = s.decodeFailed e d :=
  exec_decode_fails hb ((decodeFrame_of_frameFits hfits _ _).trans h)

/-- The core step of an accepted DECODE whose checks pass (42_decoder.md R90, R99). -/
theorem coreStep_decode_success {s : State} {strict gapreq : Bool} {value : BitVec 64} {n consumed d : Nat}
    (h : decodeFrame strict gapreq s.regs s.buf s.draws = (.success value n consumed, d)) :
    coreStep (accept (.runDecode strict gapreq) s) =
      { s with
        status := s.status.completed true .none, seq := .idle
        res := { valueLo := BitVec.ofNat 32 value.toNat, valueHi := BitVec.ofNat 32 (value.toNat / 2 ^ 32)
                 nbits := BitVec.ofNat 8 n, tag := s.regs.protoTag, consumed := BitVec.ofNat 8 consumed }
        draws := d } := by
  rw [coreStep_runDecode (accept_seq _ s), coreDecode, accept_regs, accept_buf, accept_draws, h,
    ← Nat.shiftRight_eq_div_pow]
  rfl

/-! ### BUF holding the frame of PAYLOAD -/

theorem matches_self (r : Operands) (d : Word) : r.matches d d = true := by
  rw [Operands.matches, matchNat_iff, distance_self]
  exact Nat.zero_le _

theorem atLeast_self (r : Operands) (d : Word) : r.atLeast d d = true := by
  rw [Operands.atLeast, atLeastNat_iff]
  omega

/-- Data bit `k` of a frame, in the order of the wire, is bit n-1-k (41_encoder.md R81). -/
theorem frame_getElem?_wireBit (r : Operands) (v : BitVec 64) {n k : Nat} (hk : k < n) :
    (frame r n v)[2 + 2 * k]? = some ⟨.mark, r.bitMark⟩ ∧
      (frame r n v)[3 + 2 * k]? = some ⟨.space, if v.getLsbD (n - 1 - k) then r.oneSpace else r.zeroSpace⟩ := by
  have hi : n - 1 - k < n := by omega
  have hmark := frame_getElem?_bitMark r v hi
  have hspace := frame_getElem?_bitSpace r v hi
  rw [show n - 1 - (n - 1 - k) = k by omega] at hmark hspace
  exact ⟨hmark, hspace⟩

/-- BUF holds, from OFFSET on, the first `len` durations of the frame of PAYLOAD (42_decoder.md R102). -/
def State.holdsFrame (s : State) (len : Nat) : Prop :=
  ∀ j < len, s.buf.entry (s.regs.offset.toNat + j) =
    ((frame s.regs s.regs.argNbits.toNat s.regs.payload)[j]?).map Segment.dur

section
variable {s : State} {len : Nat} (hbuf : s.holdsFrame len)
include hbuf

theorem seen_of_holdsFrame {j : Nat} (hj : j < len) {g : Segment}
    (hg : (frame s.regs s.regs.argNbits.toNat s.regs.payload)[j]? = some g) : s.seen j = g.dur := by
  have hentry : s.buf.entry (s.regs.offset.toNat + j) = some g.dur := by rw [hbuf j hj, hg, Option.map_some]
  rw [State.seen, readEntry_of_some hentry]

/-- No draw falls on a written entry (20_memory.md R53). -/
theorem drawAfter_of_holdsFrame (hlen : len ≤ 2 * s.regs.argNbits.toNat + 4) {j : Nat} (hj : j ≤ len) :
    s.drawAfter j = s.draws := by
  induction j with
  | zero => rfl
  | succ j ih =>
    have hlt : j < (frame s.regs s.regs.argNbits.toNat s.regs.payload).length := by
      rw [frame_length]
      omega
    have hentry := hbuf j hj
    rw [List.getElem?_eq_getElem hlt, Option.map_some] at hentry
    rw [← ih (Nat.le_of_succ_le hj)]
    exact congrArg Prod.snd (readEntry_of_some hentry (s.drawAfter j))

variable (hlen : 2 * s.regs.argNbits.toNat + 3 ≤ len)
include hlen

theorem headerOk_of_holdsFrame : s.headerOk := by
  have hmark : s.seen 0 = s.regs.hdrMark := seen_of_holdsFrame hbuf (j := 0) (by omega) rfl
  have hspace : s.seen 1 = s.regs.hdrSpace := seen_of_holdsFrame hbuf (j := 1) (by omega) rfl
  rw [State.headerOk, hmark, hspace]
  exact ⟨matches_self _ _, matches_self _ _⟩

section
variable {k : Nat} (hk : k < s.regs.argNbits.toNat)
include hk

theorem seen_bitSpace_of_holdsFrame : s.seen (3 + 2 * k) =
    if s.regs.payload.getLsbD (s.regs.argNbits.toNat - 1 - k) then s.regs.oneSpace else s.regs.zeroSpace := by
  have hlt : 3 + 2 * k < len := by omega
  exact seen_of_holdsFrame hbuf hlt (frame_getElem?_wireBit s.regs s.regs.payload hk).2

theorem bitOk_of_holdsFrame : s.bitOk k := by
  have hlt : 2 + 2 * k < len := by omega
  rw [State.bitOk, State.bitMarkOk, State.bitSpaceOk, seen_bitSpace_of_holdsFrame hbuf hlen hk,
    seen_of_holdsFrame hbuf hlt (frame_getElem?_wireBit s.regs s.regs.payload hk).1]
  refine ⟨matches_self _ _, ?_⟩
  split
  · exact .inl (matches_self _ _)
  · exact .inr (matches_self _ _)

/-- A 1 bit reads as 1, and a 0 bit does when ZERO_SPACE lies in ONE_SPACE's window (42_decoder.md R96, R102). -/
theorem matches_oneSpace_of_holdsFrame : s.regs.matches (s.seen (3 + 2 * k)) s.regs.oneSpace =
    (s.regs.payload.getLsbD (s.regs.argNbits.toNat - 1 - k) || s.regs.matches s.regs.zeroSpace s.regs.oneSpace) := by
  rw [seen_bitSpace_of_holdsFrame hbuf hlen hk]
  cases s.regs.payload.getLsbD (s.regs.argNbits.toNat - 1 - k)
  · rfl
  · exact matches_self _ _

end

theorem ftrMark_of_holdsFrame : s.seen (2 + 2 * s.regs.argNbits.toNat) = s.regs.ftrMark := by
  rw [Nat.add_comm]
  exact seen_of_holdsFrame hbuf (by omega) (frame_getElem?_footer s.regs s.regs.payload _ 0)

end

theorem gap_of_holdsFrame {s : State} {len : Nat} (hbuf : s.holdsFrame len)
    (hlen : 2 * s.regs.argNbits.toNat + 3 < len) : s.seen (3 + 2 * s.regs.argNbits.toNat) = s.regs.minGap := by
  rw [Nat.add_comm]
  exact seen_of_holdsFrame hbuf hlen (frame_getElem?_footer s.regs s.regs.payload _ 1)

/-- A value of n bits, each a bit of `p` or all 1. -/
theorem toNat_of_bits {v p : BitVec 64} {n : Nat} (hv : v.toNat < 2 ^ n) {allOnes : Bool}
    (hbits : ∀ i < n, v.getLsbD i = (p.getLsbD i || allOnes)) :
    v.toNat = if allOnes then 2 ^ n - 1 else p.toNat % 2 ^ n := by
  apply Nat.eq_of_testBit_eq
  intro i
  obtain hi | hi := Nat.lt_or_ge i n
  · rw [BitVec.testBit_toNat, hbits i hi]
    cases allOnes <;> simp [hi, BitVec.testBit_toNat]
  · rw [Nat.testBit_lt_two_pow (hv.trans_le (Nat.pow_le_pow_right Nat.two_pos hi))]
    cases allOnes <;> simp [hi.not_gt]

/-! ### The statements of 42_decoder.md, checks and results -/

/-- Settles O26: the strict check is the first test, and the only one that reads DESC_NBITS. -/
theorem strictCheckComesFirst : Obligations.StrictCheckComesFirst := by
  refine ⟨fun s gapreq hb hne => exec_decode_fails hb (decodeFrame_strictLength hne gapreq s.buf s.draws), ?lenient⟩
  case lenient =>
    intro s gapreq b hq
    rw [coreStep_runDecode hq, coreStep_runDecode (s := { s with regs := { s.regs with descNbits := b } }) hq]
    simp only [coreDecode, decodeFrame_lenient_descNbits]
    split <;> rfl

/-- Settles O27: the bit count is the first check that fails. -/
theorem tooManyBitsIsConfigError : Obligations.TooManyBitsIsConfigError := fun s _ _ hb hstrict hn =>
  exec_decode_fails hb (decodeFrame_tooManyBits hstrict hn s.buf s.draws)

/-- Settles O28: the frame, or the required gap entry, does not lie below BUF_LEN. -/
theorem shortBufferFails : Obligations.ShortBufferFails := by
  intro s strict gapreq hb hstrict hn hlen
  refine exec_decode_fails hb (decodeFrame_shortBuffer hstrict hn ?_ s.buf s.draws)
  rw [avail_lt_need_iff, ← Bool.not_eq_true, gapPresent_iff]
  exact hlen.imp_right fun ⟨hreq, heq⟩ => ⟨hreq, by omega⟩

/-- Settles O29, the mark tested before the space. -/
theorem headerMismatchFails : Obligations.HeaderMismatchFails := by
  refine fun s strict gapreq hb hfits => ⟨fun hmark => ?mark, fun hmark hspace => ?space⟩
  case mark => exact exec_decode_fails_of_entries hb hfits (decodeEntries_badHdrMark hmark)
  case space => exact exec_decode_fails_of_entries hb hfits (decodeEntries_badHdrSpace hmark hspace)

/-- Settles O30: the loop reaches bit `k`, and ends there. -/
theorem bitMismatchFails : Obligations.BitMismatchFails := by
  refine fun s strict gapreq k hb hfits hheader hk hbefore => ⟨fun hmark => ?mark, fun hmark hspace => ?space⟩
  case mark =>
    exact exec_decode_fails_of_entries hb hfits
      (decodeEntries_badBit hheader hk hbefore fun left => decodeBits_badMark hmark left _)
  case space =>
    exact exec_decode_fails_of_entries hb hfits
      (decodeEntries_badBit hheader hk hbefore fun left => decodeBits_badSpace hmark hspace left _)

/-- Settles O31: the footer mark is tested before the gap, and the gap only where it is present. -/
theorem footerMismatchFails : Obligations.FooterMismatchFails := by
  refine fun s strict gapreq hb hfits hheader hbits => ⟨fun hftr => ?mark, fun hftr hpresent hgap => ?gap⟩
  case mark => exact exec_decode_fails_of_entries hb hfits (decodeEntries_badFtrMark hheader hbits hftr)
  case gap =>
    have hread := (gapPresent_iff s.regs).mpr hpresent
    exact exec_decode_fails_of_entries hb hfits (decodeEntries_badGap hheader hbits hftr hread hgap)

/-- Settles O32, by the value of the bits seen. -/
theorem decodeReportsValue : Obligations.DecodeReportsValue := by
  intro s strict gapreq hb hfits hheader hbits hftr hgap
  have ⟨_, hn, _⟩ := hfits
  rw [← gapPresent_iff] at hgap
  refine ⟨_, s.valueSeen s.regs.argNbits.toNat, exec_decode_idle hb strict gapreq, valueSeen_lt s hn,
    fun k hk => getLsbD_valueSeen s hn hk, ?_⟩
  rw [coreStep_decode_success
    ((decodeFrame_of_frameFits hfits _ _).trans (decodeEntries_success hheader hbits hftr hgap))]
  simp only [gapPresent_iff, BitVec.ofNat_toNat, BitVec.setWidth_eq]
  rfl

/-- Settles O33: every failure has an error code. -/
theorem failedDecodeLeavesZeros : Obligations.FailedDecodeLeavesZeros := by
  intro s strict gapreq hq
  rw [coreStep_runDecode hq]
  obtain ⟨value, n, consumed, d, -, he⟩ | ⟨e, d, hfail, he⟩ := coreDecode_cases strict gapreq s
  · rw [he]
    exact ⟨nofun, fun _ => rfl⟩
  · rw [he]
    refine ⟨fun _ => ⟨rfl, ?_⟩, nofun⟩
    rintro rfl
    exact decodeFrame_ne_failure_none strict gapreq s.regs s.buf s.draws (congrArg Prod.fst hfail)

/-- Settles O35: every entry of the frame matches its own nominal duration, so the checks pass. -/
theorem encodeDecodeRoundTrip : Obligations.EncodeDecodeRoundTrip := by
  intro s gapWritten gapreq hb hreq hdesc hn hlen hbuf
  generalize hextra : (if gapWritten = true then 4 else 3) = extra at hlen hbuf
  have hgapLen : gapWritten = true → extra = 4 := fun h => by rw [← hextra, if_pos h]
  have hbounds : extra = 3 ∨ extra = 4 := by
    rw [← hextra]
    split <;> simp
  have hbuf : s.holdsFrame (2 * s.regs.argNbits.toNat + extra) := hbuf
  have hlo : 2 * s.regs.argNbits.toNat + 3 ≤ 2 * s.regs.argNbits.toNat + extra := by omega
  have hhi : 2 * s.regs.argNbits.toNat + extra ≤ 2 * s.regs.argNbits.toNat + 4 := by omega
  have hfits : s.regs.frameFits true gapreq :=
    ⟨fun _ => hdesc.symm, hn, by omega, fun h => by have := hgapLen (hreq h); omega⟩
  obtain ⟨t, v, hexec, hv, hbit, hstep⟩ := decodeReportsValue s true gapreq hb hfits
    (headerOk_of_holdsFrame hbuf hlo) (fun k hk => bitOk_of_holdsFrame hbuf hlo hk)
    (by rw [ftrMark_of_holdsFrame hbuf hlo]; exact matches_self _ _)
    (fun hpresent => by rw [gap_of_holdsFrame hbuf (by omega)]; exact atLeast_self _ _)
  refine ⟨t, hexec, ?_⟩
  rw [hstep]
  refine ⟨rfl, rfl, rfl, rfl, ?consumed, ?draws, ?value⟩
  case consumed =>
    rw [BitVec.toNat_ofNat]
    omega
  case draws => split <;> exact drawAfter_of_holdsFrame hbuf hhi (by omega)
  case value =>
    rw [← Nat.shiftRight_eq_div_pow]
    refine (congrArg BitVec.toNat (value_halves v)).trans (toNat_of_bits hv fun i hi => ?_)
    have hpos : s.regs.argNbits.toNat - 1 - (s.regs.argNbits.toNat - 1 - i) = i := by omega
    have hk : s.regs.argNbits.toNat - 1 - i < s.regs.argNbits.toNat := by omega
    have hwire := hbit _ hk
    rwa [matches_oneSpace_of_holdsFrame hbuf hlo hk, hpos] at hwire

end Sys2Proof.Machine
end

section
/-! PROOFS. The match window, its edges, and MATCH from acceptance to completion (43_matcher.md R110 to R114). -/

namespace Sys2Proof.Machine

/-! ### The two edges of the window -/

/-- `AtLeast` is the lower half of `Match`, which adds the upper edge (43_matcher.md R110, R111). -/
theorem matchNat_iff_atLeastNat (tp ta m n : Nat) :
    matchNat tp ta m n = true ↔ atLeastNat tp ta m n = true ∧ 100 * m ≤ 100 * n + n * tp + 100 * ta := by
  rw [matchNat_iff, atLeastNat_iff, distance_eq]
  omega

/-- The window in whole microseconds: its half-width is rounded down (43_matcher.md R113). -/
theorem matchNat_iff_floor (tp ta m n : Nat) :
    matchNat tp ta m n = true ↔
      n - (n * tp + 100 * ta) / 100 ≤ m ∧ m ≤ n + (n * tp + 100 * ta) / 100 := by
  rw [matchNat_iff_atLeastNat, atLeastNat_iff]
  omega

/-- The lower edge over the rationals (43_matcher.md R111). -/
theorem atLeastNat_iff_rat (tp ta m g : Nat) :
    atLeastNat tp ta m g = true ↔ (g : ℚ) - g * tp / 100 - ta ≤ m := by
  rw [atLeastNat_iff, ← Nat.cast_le (α := ℚ)]
  push_cast
  constructor <;> intro h <;> linarith

/-- The upper edge over the rationals (43_matcher.md R110). -/
theorem upperEdge_iff_rat (tp ta m n : Nat) :
    100 * m ≤ 100 * n + n * tp + 100 * ta ↔ (m : ℚ) ≤ n + n * tp / 100 + ta := by
  rw [← Nat.cast_le (α := ℚ)]
  push_cast
  constructor <;> intro h <;> linarith

/-! ### The laws of `Match` and `AtLeast` -/

theorem atLeastNat_of_le {m g : Nat} (h : g ≤ m) (tp ta : Nat) : atLeastNat tp ta m g = true := by
  rw [atLeastNat_iff]
  omega

theorem matchNat_self (tp ta n : Nat) : matchNat tp ta n n = true := by
  rw [matchNat_iff, distance_self]
  exact Nat.zero_le _

/-- Wider tolerances accept at least as much (43_matcher.md R113). -/
theorem matchNat_mono {tp tp' ta ta' m n : Nat} (htp : tp ≤ tp') (hta : ta ≤ ta') (h : matchNat tp ta m n = true) :
    matchNat tp' ta' m n = true := by
  rw [matchNat_iff] at h ⊢
  calc 100 * distance m n ≤ n * tp + 100 * ta := h
    _ ≤ n * tp' + 100 * ta' := by gcongr

/-- `Match` reads only the distance, which is `k` on both sides of the nominal (43_matcher.md R113). -/
theorem matchNat_symm {n k : Nat} (h : k ≤ n) (tp ta : Nat) :
    matchNat tp ta (n + k) n = matchNat tp ta (n - k) n := by
  have hdist : distance (n + k) n = distance (n - k) n := by
    rw [distance_eq, distance_eq]
    omega
  rw [matchNat, matchNat, hdist]

/-- Where the relative tolerance is a whole number, the upper edge matches and the next microsecond does not
(43_matcher.md R113). -/
theorem matchNat_upperEdge {n tp : Nat} (h : n * tp % 100 = 0) (ta : Nat) :
    matchNat tp ta (n + n * tp / 100 + ta) n = true ∧ matchNat tp ta (n + n * tp / 100 + ta + 1) n = false := by
  rw [← Bool.not_eq_true, matchNat_iff_floor, matchNat_iff_floor]
  omega

/-- A nominal of 0 has no relative tolerance (43_matcher.md R114). -/
theorem matchNat_zero_nominal (tp ta m : Nat) : matchNat tp ta m 0 = true ↔ m ≤ ta := by
  rw [matchNat_iff_floor]
  omega

theorem matchNat_zero_measured (tp ta n : Nat) : matchNat tp ta 0 n = true ↔ 100 * n ≤ n * tp + 100 * ta := by
  rw [matchNat_iff, distance_eq]
  omega

/-- From 100 percent on the window reaches from 0 to twice the nominal (43_matcher.md R114). -/
theorem matchNat_of_hundred_le {tp ta m n : Nat} (htp : 100 ≤ tp) (hm : m ≤ 2 * n + ta) :
    matchNat tp ta m n = true := by
  have hwide : matchNat 100 ta m n = true := by
    rw [matchNat_iff_floor]
    omega
  exact matchNat_mono htp le_rfl hwide

/-! ### The registers' test and its core step -/

/-- The tolerance of the 8-bit and 32-bit registers fits 41 bits (43_matcher.md R110). -/
theorem tolerance_lt (n ta : Word) (tp : BitVec 8) : n.toNat * tp.toNat + 100 * ta.toNat < 2 ^ 41 := by
  have hprod : n.toNat * tp.toNat ≤ 2 ^ 32 * 2 ^ 8 := Nat.mul_le_mul n.isLt.le tp.isLt.le
  have hta := ta.isLt
  omega

/-- The core step of a running MATCH (43_matcher.md R112). -/
theorem coreStep_runMatch {s : State} (hq : s.seq = .runMatch) :
    coreStep s = complete (s.regs.matches s.regs.meas s.regs.nom) .none s := by
  unfold coreStep
  rw [hq]
  rfl

/-- The registers' test written out, the distance as an absolute value (43_matcher.md R110). -/
theorem matches_eq_decide (r : Operands) (m n : Word) :
    r.matches m n = decide (100 * ((m.toNat : Int) - n.toNat).natAbs ≤
      n.toNat * r.tolPct.toNat + 100 * r.tolAbs.toNat) := by
  rw [Operands.matches, matchNat, distance_eq]

/-! ### The statements of 43_matcher.md -/

/-- Settles O15: the block accepts, and the core step completes with the registers' test. -/
theorem matchReportsWindow : Obligations.MatchReportsWindow := by
  intro s hb
  obtain ⟨hexec, -⟩ := idleBlockAcceptsCommand s hb
  refine ⟨_, hexec, ?_⟩
  rw [← matches_eq_decide, coreStep_runMatch rfl]
  rfl

/-- Settles O16, law by law. -/
theorem matchLaws : Obligations.MatchLaws :=
  ⟨matchNat_self, fun _ _ _ _ _ _ => matchNat_mono, fun tp ta _ _ h => matchNat_symm h tp ta,
    fun _ ta _ h => matchNat_upperEdge h ta, matchNat_iff_floor,
    fun tp ta m n h => ((matchNat_iff_atLeastNat tp ta m n).mp h).1, fun _ _ _ => ⟨rfl, rfl⟩⟩

/-- Settles O17, edge by edge. -/
theorem matchIsTheRationalWindow : Obligations.MatchIsTheRationalWindow := by
  intro r m n
  refine ⟨?window, atLeastNat_iff_rat _ _ _ _, tolerance_lt n r.tolAbs r.tolPct⟩
  case window => rw [Operands.matches, matchNat_iff_atLeastNat, atLeastNat_iff_rat, upperEdge_iff_rat]

/-- Settles O18, corner by corner. -/
theorem matchCornerCases : Obligations.MatchCornerCases :=
  ⟨matchNat_zero_nominal, fun _ _ _ _ => matchNat_of_hundred_le, matchNat_zero_measured,
    fun tp ta => matchNat_self tp ta _, matchNat_of_hundred_le le_rfl (Nat.zero_le _),
    fun tp ta m => atLeastNat_of_le m.zero_le tp ta, fun tp ta _ _ h => atLeastNat_of_le h tp ta⟩

end Sys2Proof.Machine
end

section
/-! PROOFS. The interrupt level over one step (60_exceptions.md R127). -/

namespace Sys2Proof.Machine

/-! ### What clears DONE -/

/-- The next event is one of the three that clear STATUS.DONE (60_exceptions.md R127). -/
def State.clearsDoneNext (s : State) : Prop :=
  s.inputs.head? = some .reset ∨ s.acceptsNext ∨ ∃ w, s.writesNext 0x004 w ∧ w.getLsbD 1 = true

theorem not_completes_of_writesNext {s : State} {off : Nat} {w : Word} (h : s.writesNext off w) (s' : State) :
    ¬ completes s s' := fun hc => not_writesNext_of_coreTurn hc.1 off w h

theorem not_completes_of_clearsDoneNext {s : State} (h : s.clearsDoneNext) (s' : State) : ¬ completes s s' := by
  obtain hreset | ⟨-, w, hw, -⟩ | ⟨w, hw, -⟩ := h
  · exact fun hc => head?_ne_reset_of_coreTurn hc.1 hreset
  · exact not_completes_of_writesNext hw s'
  · exact not_completes_of_writesNext hw s'

theorem not_clearsDoneNext_of_writesNext_inten {s : State} {w : Word} (h : s.writesNext 0x008 w) :
    ¬ s.clearsDoneNext := by
  have hreset : s.inputs.head? ≠ some .reset := fun hr => by cases h.symm.trans hr
  simp [State.clearsDoneNext, State.acceptsNext, writesNext_iff h, hreset]

/-- `doneSetByCompletion` with its clearing events named. -/
theorem step_doneFlag {s s' : State} (hs : step s = .next s') :
    s'.status.doneFlag = true ↔ completes s s' ∨ (s.status.doneFlag = true ∧ ¬ s.clearsDoneNext) := by
  simp only [doneSetByCompletion s s' hs, State.clearsDoneNext, not_or, not_exists, not_and, Bool.not_eq_true, ne_eq]

theorem step_irq_of_clearsDoneNext {s s' : State} (hs : step s = .next s') (h : s.clearsDoneNext) : s'.irq = false := by
  have hdone : s'.status.doneFlag = false := by
    simp [← Bool.not_eq_true, step_doneFlag hs, not_completes_of_clearsDoneNext h, h]
  simp [State.irq, hdone]

/-- A write of INTEN leaves DONE (20_memory.md R46). -/
theorem step_doneFlag_of_writesNext_inten {s s' : State} (hs : step s = .next s') {w : Word} (h : s.writesNext 0x008 w) :
    s'.status.doneFlag = s.status.doneFlag := by
  rw [Bool.eq_iff_iff, step_doneFlag hs]
  simp [not_completes_of_writesNext h, not_clearsDoneNext_of_writesNext_inten h]

/-! ### What moves DONE_IE -/

/-- INTEN stands at offset 0x008 (10_state.md section 1). -/
theorem off_eq_inten_iff (x : Reg) : x.off = 0x008 ↔ x = .inten := off_inj (y := .inten)

@[simp] theorem entryOff_ne_inten (i : Nat) : entryOff i ≠ 0x008 := entryOff_ne_off i .inten

@[simp] theorem coreStep_doneIe (s : State) : (coreStep s).doneIe = s.doneIe := by
  obtain ⟨-, he⟩ | ⟨-, -, g, -, he⟩ | ⟨-, -, b, e, r, d, he, -⟩ := coreStep_cases s <;> rw [he] <;> rfl

/-- Everything a step can do to DONE_IE: a write of INTEN, a reset, or nothing (10_state.md R18). -/
theorem step_doneIe {s s' : State} (hs : step s = .next s') :
    (∃ w, s.writesNext 0x008 w ∧ s'.doneIe = w.getLsbD 0) ∨
      (s.inputs.head? = some .reset ∧ s'.doneIe = false) ∨
      ((∀ w, ¬ s.writesNext 0x008 w) ∧ s'.doneIe = s.doneIe) := by
  cases step_took hs with
  | core h => exact .inr (.inr ⟨not_writesNext_of_coreTurn h _, coreStep_doneIe s.popped⟩)
  | reset h => exact .inr (.inl ⟨h, rfl⟩)
  | wroteReg x w h _ _ =>
    by_cases hx : x = .inten
    · subst hx
      exact .inl ⟨w, h, rfl⟩
    · exact .inr (.inr ⟨by simp [writesNext_iff h, off_eq_inten_iff, hx], by simp [writeReg_operand hx]⟩)
  | ignored x w h hx =>
    have hne : x ≠ .inten := by
      rintro rfl
      cases hx
    exact .inr (.inr ⟨by simp [writesNext_iff h, off_eq_inten_iff, hne], rfl⟩)
  | droppedReg x w h _ hn _ => exact .inr (.inr ⟨by simp [writesNext_iff h, off_eq_inten_iff, hn], rfl⟩)
  | illegal _ _ h _ | nop _ h _ | refused _ _ h _ _ _ | accepted _ _ _ h _ _ _ _ _ | clear _ h =>
    exact .inr (.inr ⟨by simp [writesNext_iff h, commandEvent_eq, Reg.off], rfl⟩)
  | readReg _ h | readEntry _ _ h | droppedEntry _ _ _ h _ | wroteEntry _ _ _ h _ =>
    exact .inr (.inr ⟨by simp [writesNext_iff h], rfl⟩)

theorem step_doneIe_of_completes {s s' : State} (hs : step s = .next s') (h : completes s s') : s'.doneIe = s.doneIe := by
  obtain ⟨w, hw, -⟩ | ⟨hreset, -⟩ | ⟨-, hkept⟩ := step_doneIe hs
  · exact absurd h (not_completes_of_writesNext hw s')
  · exact absurd hreset (head?_ne_reset_of_coreTurn h.1)
  · exact hkept

theorem step_doneIe_of_writesNext_inten {s s' : State} (hs : step s = .next s') {w : Word} (h : s.writesNext 0x008 w) :
    s'.doneIe = w.getLsbD 0 := by
  obtain ⟨v, hv, hset⟩ | ⟨hreset, -⟩ | ⟨hno, -⟩ := step_doneIe hs
  · obtain rfl : w = v := by simpa [writesNext_iff h] using hv
    exact hset
  · cases h.symm.trans hreset
  · exact absurd h (hno w)

/-! ### The statement of 60_exceptions.md -/

theorem irq_eq_true_iff (s : State) : s.irq = true ↔ s.status.doneFlag = true ∧ s.doneIe = true := Bool.and_eq_true_iff

/-- A rise of `irq` is one of DONE or of DONE_IE: a completion, or the enabling write while DONE is 1. -/
theorem step_irq_rises {s s' : State} (hs : step s = .next s') (hlow : s.irq = false) (hhigh : s'.irq = true) :
    (completes s s' ∧ s.doneIe = true) ∨
      (s.status.doneFlag = true ∧ ∃ w, s.writesNext 0x008 w ∧ w.getLsbD 0 = true) := by
  obtain ⟨hdone, hie⟩ := (irq_eq_true_iff s').mp hhigh
  obtain ⟨w, hw, hset⟩ | ⟨-, hoff⟩ | ⟨-, hkept⟩ := step_doneIe hs
  · exact .inr ⟨step_doneFlag_of_writesNext_inten hs hw ▸ hdone, w, hw, hset ▸ hie⟩
  · cases hoff.symm.trans hie
  · rw [hkept] at hie
    obtain hcompletes | ⟨hwas, -⟩ := (step_doneFlag hs).mp hdone
    · exact .inl ⟨hcompletes, hie⟩
    · cases hlow.symm.trans ((irq_eq_true_iff s).mpr ⟨hwas, hie⟩)

/-- A fall of `irq` is one of DONE or of DONE_IE: a clearing event, or the disabling write. -/
theorem step_irq_falls {s s' : State} (hs : step s = .next s') (hhigh : s.irq = true) (hlow : s'.irq = false) :
    s.clearsDoneNext ∨ ∃ w, s.writesNext 0x008 w ∧ w.getLsbD 0 = false := by
  obtain ⟨hdone, hie⟩ := (irq_eq_true_iff s).mp hhigh
  by_cases hclear : s.clearsDoneNext
  · exact .inl hclear
  have hstays := (step_doneFlag hs).mpr (.inr ⟨hdone, hclear⟩)
  have hoff : s'.doneIe = false := by simpa [State.irq, hstays] using hlow
  obtain ⟨w, hw, hset⟩ | ⟨hreset, -⟩ | ⟨-, hkept⟩ := step_doneIe hs
  · exact .inr ⟨w, hw, hset ▸ hoff⟩
  · exact .inl (.inl hreset)
  · cases (hkept.trans hie).symm.trans hoff

/-- Settles O56, from what a step does to DONE (`step_doneFlag`) and to DONE_IE (`step_doneIe`). -/
theorem interruptFollowsDone : Obligations.InterruptFollowsDone := by
  intro s s' hs
  refine ⟨irq_eq_true_iff s', step_irq_rises hs, ?falls, ?completion, ?inten, ?w1c, ?acceptance, ?reset⟩
  case falls =>
    intro hhigh hlow
    obtain (hreset | haccept | hw) | hoff := step_irq_falls hs hhigh hlow
    · exact .inr (.inr (.inr hreset))
    · exact .inr (.inl haccept)
    · exact .inl hw
    · exact .inr (.inr (.inl hoff))
  case completion =>
    intro hc hie
    exact (irq_eq_true_iff s').mpr ⟨(step_doneFlag hs).mpr (.inl hc), (step_doneIe_of_completes hs hc).trans hie⟩
  case inten =>
    intro w hw
    rw [State.irq, step_doneFlag_of_writesNext_inten hs hw, step_doneIe_of_writesNext_inten hs hw]
  case w1c => exact fun w hw hbit => step_irq_of_clearsDoneNext hs (.inr (.inr ⟨w, hw, hbit⟩))
  case acceptance => exact fun h => step_irq_of_clearsDoneNext hs (.inr (.inl h))
  case reset => exact fun h => step_irq_of_clearsDoneNext hs (.inl h)

end Sys2Proof.Machine
end

section
/-! PROOFS. The byte form of the commands, and the step that submits one (30_encoding.md R60, R64; 20_memory.md R42). -/

namespace Sys2Proof.Machine

/-! ### The byte lanes of a word -/

/-- The lanes of the word made of four bytes are those bytes (20_memory.md R42). -/
theorem laneOf_wordOfLanes (b0 b1 b2 b3 : Byte) :
    laneOf (wordOfLanes b0 b1 b2 b3) 0 = b0 ∧ laneOf (wordOfLanes b0 b1 b2 b3) 1 = b1 ∧
      laneOf (wordOfLanes b0 b1 b2 b3) 2 = b2 ∧ laneOf (wordOfLanes b0 b1 b2 b3) 3 = b3 := by
  simp (disch := decide) only [laneOf, wordOfLanes, Nat.reduceMul, Nat.reduceSub, BitVec.extractLsb'_append_eq_of_le,
    BitVec.extractLsb'_append_eq_of_add_le, BitVec.extractLsb'_eq_self, and_self]

/-- The bytes of the one word that a list of four bytes or more begins with decode to that word's instruction. -/
theorem decodeBytes_word (b0 b1 b2 b3 : Byte) (tail rest : List Byte) (i : Instr) :
    decodeBytes (b0 :: b1 :: b2 :: b3 :: tail) = .ok (i, rest) ↔
      decodeWord (wordOfLanes b0 b1 b2 b3) = .ok i ∧ tail = rest := by
  rw [decodeBytes]
  cases decodeWord (wordOfLanes b0 b1 b2 b3) <;> simp

/-- A decoded instruction's bytes stand first (30_encoding.md R60). -/
theorem eq_encodeBytes_of_decodeBytes {i : Instr} {bytes rest : List Byte} (h : decodeBytes bytes = .ok (i, rest)) :
    bytes = encodeBytes i ++ rest := by
  match bytes with
  | b0 :: b1 :: b2 :: b3 :: tail =>
    obtain ⟨hword, rfl⟩ := (decodeBytes_word b0 b1 b2 b3 tail rest i).mp h
    obtain ⟨h0, h1, h2, h3⟩ := laneOf_wordOfLanes b0 b1 b2 b3
    rw [encodeBytes, ← eq_encodeWord_of_decodeWord hword, h0, h1, h2, h3]
    rfl
  | [] | [_] | [_, _] | [_, _, _] => cases h

/-- An instruction's bytes decode to it, whatever stands behind them (30_encoding.md R60). -/
theorem decodeBytes_encodeBytes (i : Instr) (rest : List Byte) : decodeBytes (encodeBytes i ++ rest) = .ok (i, rest) := by
  refine (decodeBytes_word _ _ _ _ rest rest i).mpr ⟨?_, rfl⟩
  rw [wordOfLanes_laneOf]
  exact (decodeWord_eq_ok_iff _ i).mpr rfl

/-- The number of an instruction's word, taken as a table word, is that word again. -/
theorem tableWord_toNat (w : Word) : tableWord 32 w.toNat = w := by
  rw [tableWord, Nat.mod_eq_of_lt w.isLt, BitVec.ofNat_toNat, BitVec.setWidth_eq]

/-! ### The statements of 30_encoding.md, over bytes and over a step -/

/-- Settles O3: the lanes of a word and the word of its lanes are inverse, and a word decodes to an instruction exactly when
it is the instruction's word. -/
theorem decodeEncodeAgree : Obligations.DecodeEncodeAgree := fun i _ rest =>
  ⟨eq_encodeBytes_of_decodeBytes, fun h => h ▸ decodeBytes_encodeBytes i rest⟩

/-- Settles O1: each table word is the word of its command. -/
theorem tableWordsDecode : Obligations.TableWordsDecode :=
  have decodes (i : Instr) : decodeWord (encodeWord i) = .ok i := (decodeWord_eq_ok_iff _ i).mpr rfl
  ⟨decodes .nop, decodes .matchTol, decodes .encode, decodes (.decode false false), decodes (.decode true false),
    decodes (.decode false true), decodes (.decode true true)⟩

/-- Settles O4: the write of CMD submits its word, which is the instruction's own. -/
theorem stepRunsDecodedCommand : Obligations.StepRunsDecodedCommand := by
  refine ⟨fun s w i hw => ?written, fun s i => ?placed⟩
  case written => rw [step_commandEvent, eq_encodeWord_of_decodeWord hw, submit_encodeWord]
  case placed =>
    rw [State.withFetchWord, tableWord_toNat]
    exact (step_commandEvent _ s).trans (submit_encodeWord i s)

end Sys2Proof.Machine
end

section
/-! PROOFS. What a submission, a core step and a step of the machine leave unchanged (10_state.md R30 to R33; 20_memory.md
R47; 30_encoding.md R68). -/

namespace Sys2Proof.Machine

/-! ### The core step -/

/-- The fields a core step may write: STATUS, SEQ, the results with the draw counter, TX_SEGS and TXLOG. -/
theorem coreStep_frame (s : State) :
    coreStep s = { s with
      status := (coreStep s).status, res := (coreStep s).res, txSegs := (coreStep s).txSegs, seq := (coreStep s).seq
      txlog := (coreStep s).txlog, draws := (coreStep s).draws } := by
  obtain ⟨-, he⟩ | ⟨-, -, g, -, he⟩ | ⟨-, -, b, e, r, d, he, -⟩ := coreStep_cases s <;> rw [he] <;> rfl

@[simp] theorem coreStep_regs (s : State) : (coreStep s).regs = s.regs := by rw [coreStep_frame]
@[simp] theorem coreStep_buf (s : State) : (coreStep s).buf = s.buf := by rw [coreStep_frame]
@[simp] theorem coreStep_inputs (s : State) : (coreStep s).inputs = s.inputs := by rw [coreStep_frame]
@[simp] theorem coreStep_reads (s : State) : (coreStep s).reads = s.reads := by rw [coreStep_frame]

/-- A core step writes the results and takes draws only in a DECODE, which it completes (42_decoder.md R90). -/
theorem coreStep_res (s : State) :
    ((coreStep s).res = s.res ∧ (coreStep s).draws = s.draws) ∨
      ((∃ strict gapreq, s.seq = .runDecode strict gapreq) ∧ (coreStep s).seq = .idle) := by
  obtain ⟨-, he⟩ | ⟨-, -, g, -, he⟩ | ⟨-, -, b, e, r, d, he, hkept⟩ := coreStep_cases s <;> rw [he]
  · exact .inl ⟨rfl, rfl⟩
  · exact .inl ⟨rfl, rfl⟩
  · by_cases hdecode : ∃ strict gapreq, s.seq = .runDecode strict gapreq
    · exact .inr ⟨hdecode, rfl⟩
    · exact .inl (hkept fun strict gapreq h => hdecode ⟨strict, gapreq, h⟩)

/-! ### The step of the machine -/

/-- A step takes the first event and no other (20_memory.md R49). -/
theorem step_inputs {s s' : State} (hs : step s = .next s') : s'.inputs = s.inputs.tail := by
  cases step_took hs with
  | core => exact coreStep_inputs s.popped
  | wroteReg x w => exact writeReg_inputs x w s.popped
  | _ => rfl

/-- Operand registers are written only by the host while BUSY is 0, and by reset (20_memory.md R47, 30_encoding.md R68). -/
theorem step_regs {s s' : State} (hs : step s = .next s') :
    s'.regs = s.regs ∨ s.inputs.head? = some .reset ∨ s.status.busy = false := by
  cases step_took hs with
  | core => exact .inl (coreStep_regs s.popped)
  | reset h => exact .inr (.inl h)
  | wroteReg x w _ _ hb =>
    obtain hb | rfl := hb
    · exact .inr (.inr hb)
    · exact .inl rfl
  | _ => exact .inl rfl

/-- BUF is written only by a host write of an entry while BUSY is 0, and by reset (10_state.md R30). -/
theorem step_buf {s s' : State} (hs : step s = .next s') :
    s'.buf = s.buf ∨ s.inputs.head? = some .reset ∨
      (s.status.busy = false ∧ ∃ (i : Nat) (w : Word), i < Config.bufDepth ∧ s.writesNext (entryOff i) w) := by
  cases step_took hs with
  | core => exact .inl (coreStep_buf s.popped)
  | reset h => exact .inr (.inl h)
  | wroteReg x w => exact .inl (writeReg_buf x w s.popped)
  | wroteEntry i w hi h hb => exact .inr (.inr ⟨hb, i, w, hi, h⟩)
  | _ => exact .inl rfl

/-- The results are written only by the completion of a DECODE, and by reset (10_state.md R32). -/
theorem step_res {s s' : State} (hs : step s = .next s') :
    s'.res = s.res ∨ s.inputs.head? = some .reset ∨
      (completes s s' ∧ ∃ strict gapreq, s.seq = .runDecode strict gapreq) := by
  cases step_took hs with
  | core h =>
    obtain ⟨hkept, -⟩ | ⟨⟨strict, gapreq, hq⟩, hidle⟩ := coreStep_res s.popped
    · exact .inl hkept
    · have hrunning : s.seq ≠ .idle := by rw [show s.seq = _ from hq]; nofun
      exact .inr (.inr ⟨⟨h, hrunning, hidle⟩, strict, gapreq, hq⟩)
  | reset h => exact .inr (.inl h)
  | wroteReg x w => exact .inl (writeReg_res x w s.popped)
  | _ => exact .inl rfl

/-! ### The statements of the frames -/

/-- Settles O12: a submission leaves the state, refuses, or accepts. -/
theorem submissionFrame : Obligations.SubmissionFrame := by
  intro i s t h
  obtain ⟨-, he⟩ | ⟨q, -, hq, -, he⟩ := exec_cases i s <;> cases he.symm.trans h
  · exact ⟨rfl, rfl, rfl, rfl, rfl, rfl, rfl, rfl, fun _ => rfl, fun _ => rfl⟩
  · cases hb : s.status.busy with
    | true =>
      rw [submitCommand_busy hb]
      exact ⟨rfl, rfl, rfl, rfl, rfl, rfl, rfl, rfl, fun _ => rfl, fun _ => rfl⟩
    | false =>
      rw [submitCommand_idle hb]
      exact ⟨rfl, rfl, rfl, rfl, rfl, rfl, rfl, rfl, fun hi => if_neg (mt hq.mp hi), fun _ => rfl⟩

/-- Settles O13: only a completing DECODE writes the results, and only an emission TX_SEGS and TXLOG. -/
theorem coreStepFrame : Obligations.CoreStepFrame := by
  intro s
  refine ⟨coreStep_regs s, coreStep_doneIe s, coreStep_cmdErr s, coreStep_wErr s, coreStep_inputs s, coreStep_reads s,
    fun a => congrArg (·.readByte a) (coreStep_buf s), fun hno => ?results, fun hno => ?emission⟩
  case results =>
    obtain hkept | ⟨⟨strict, gapreq, hq⟩, -⟩ := coreStep_res s
    · exact hkept
    · exact absurd hq (hno strict gapreq)
  case emission =>
    obtain ⟨hq, -⟩ | ⟨-, hkept⟩ := coreStep_tx s
    · exact absurd hq hno
    · exact hkept

/-- Settles O52: BUSY is 1, so neither the operands nor BUF take a host write. -/
theorem busyFreezesOperands : Obligations.BusyFreezesOperands := by
  intro s s' hs hbusy hreset
  have hnotIdle : s.status.busy ≠ false := by simp [hbusy]
  have hregs := (step_regs hs).resolve_right (not_or.mpr ⟨hreset, hnotIdle⟩)
  have hbuf := (step_buf hs).resolve_right (not_or.mpr ⟨hreset, fun h => hnotIdle h.1⟩)
  exact ⟨hregs, fun a => by rw [hbuf]⟩

/-- Settles O53, by what a step does to BUF. -/
theorem onlyHostWritesBuf : Obligations.OnlyHostWritesBuf :=
  fun _ _ hs hne => (step_buf hs).resolve_left hne

/-- Settles O54, by what a step does to the results. -/
theorem onlyDecodeWritesResults : Obligations.OnlyDecodeWritesResults :=
  fun _ _ hs hne => ((step_res hs).resolve_left hne).symm

end Sys2Proof.Machine
end

section
/-! PROOFS. The core's turns, the outcome of a command, and the host steps between two turns (20_memory.md R49; 40_command.md
R71, R74). -/

namespace Sys2Proof.Machine

/-! ### The core's turns -/

/-- A run of the machine begins with its first step. -/
theorem run_succ {s t : State} (h : step s = .next t) (k : Nat) :
    Host.Core.run Sys2Proof.core (k + 1) s = Host.Core.run Sys2Proof.core k t := by
  simp only [Host.Core.run]
  rw [show Host.Core.step Sys2Proof.core s = _ from h]

/-- With no event left the core has the turn (20_memory.md R49). -/
theorem step_of_quiet {s : State} (h : s.inputs = []) : step s = .next (coreStep s) := by simp [step, h]

theorem step_of_coreTurn {s : State} (h : s.coreTurn) : step s = .next (coreStep s.popped) := by
  obtain h | h := h
  · obtain ⟨rest, hin⟩ := List.head?_eq_some_iff.mp h
    simp [step, State.popped, hin]
  · have hpop : s.popped = s := by
      cases s
      cases h
      rfl
    rw [step_of_quiet h, hpop]

theorem coreStep_idle {s : State} (hq : s.seq = .idle) : coreStep s = s := by
  rw [coreStep, hq]

/-- The submission of a word as the next event (40_command.md R70). -/
theorem step_of_writesNext_cmd {s : State} {w : Word} (h : s.writesNext 0x000 w) : step s = submit w s.popped := by
  obtain ⟨rest, hin⟩ := List.head?_eq_some_iff.mp h
  have hpush : s = s.popped.push (commandEvent w) := by
    cases s
    cases hin
    rfl
  calc step s = step (s.popped.push (commandEvent w)) := congrArg step hpush
    _ = submit w s.popped := step_commandEvent w s.popped

/-- Outside an emission a turn of the core completes the running command (40_command.md R74). -/
theorem coreStep_completes {s : State} (hq : s.seq ≠ .idle) (hn : ¬ (s.seq = .runEncode ∧ s.emitsNext)) :
    (coreStep s).seq = .idle ∧ (coreStep s).status.busy = false ∧ (coreStep s).status.doneFlag = true := by
  obtain ⟨hidle, -⟩ | ⟨hrun, hemits, -⟩ | ⟨-, -, b, e, r, d, he, -⟩ := coreStep_cases s
  · exact absurd hidle hq
  · exact absurd ⟨hrun, hemits⟩ hn
  · rw [he]
    exact ⟨rfl, rfl, rfl⟩

/-- A turn of the core keeps SUCCESS and ERR, or completes the running command (10_state.md R14, R15). -/
theorem coreStep_outcome (s : State) :
    ((coreStep s).status.success = s.status.success ∧ (coreStep s).status.err = s.status.err) ∨
      (s.seq ≠ .idle ∧ (coreStep s).seq = .idle) := by
  obtain ⟨-, he⟩ | ⟨-, -, g, -, he⟩ | ⟨hq, -, b, e, r, d, he, -⟩ := coreStep_cases s <;> rw [he]
  · exact .inl ⟨rfl, rfl⟩
  · exact .inl ⟨rfl, rfl⟩
  · exact .inr ⟨hq, rfl⟩

/-! ### From acceptance to completion -/

/-- The instruction's sequencer state after acceptance (40_command.md R71). -/
theorem exec_accepts {s : State} (hb : s.status.busy = false) {i : Instr} (hi : i ≠ .nop) :
    ∃ q, q ≠ .idle ∧ (q = .runEncode ↔ i = .encode) ∧ exec i s = .next (accept q s) := by
  obtain ⟨rfl, -⟩ | ⟨q, hq, hencode, -, he⟩ := exec_cases i s
  · exact absurd rfl hi
  · exact ⟨q, hq, hencode, by rw [he, submitCommand_idle hb]⟩

/-- A command is running, and its flags are those of its acceptance (70_reset_and_hazards.md R145). -/
def State.running (s : State) : Prop :=
  s.seq ≠ .idle ∧ s.status.busy = true ∧ s.status.doneFlag = false ∧ s.status.success = false ∧ s.status.err = .none

theorem accept_running {q : Sequencer} (hq : q ≠ .idle) (s : State) : (accept q s).running := ⟨hq, rfl, rfl, rfl, rfl⟩

/-- A running command outside an emission completes in one turn (40_command.md R74). -/
theorem completes_in_one {t : State} (ht : t.running) (hn : ¬ (t.seq = .runEncode ∧ t.emitsNext)) :
    (∀ j < 1, (coreSteps j t).running) ∧ (coreSteps 1 t).seq = .idle ∧ (coreSteps 1 t).status.busy = false ∧
      (coreSteps 1 t).status.doneFlag = true := by
  refine ⟨fun j hj => ?_, coreStep_completes ht.1 hn⟩
  obtain rfl := Nat.lt_one_iff.mp hj
  exact ht

/-- A valid ENCODE completes one turn after its N emissions (41_encoder.md R83). -/
theorem encode_completes {t : State} (ht : t.running) (hq : t.seq = .runEncode) (h0 : t.txSegs = 0)
    (hv : encodeValid t.regs = true) :
    (∀ j < segmentCount t.regs + 1, (coreSteps j t).running) ∧ (coreSteps (segmentCount t.regs + 1) t).seq = .idle ∧
      (coreSteps (segmentCount t.regs + 1) t).status.busy = false ∧
      (coreSteps (segmentCount t.regs + 1) t).status.doneFlag = true := by
  refine ⟨fun j hj => ?_, ?_⟩
  · rw [coreSteps_encode hq h0 hv (Nat.lt_succ_iff.mp hj)]
    exact ht
  · rw [coreSteps_encode_done hq h0 hv]
    exact ⟨rfl, rfl, rfl⟩

/-! ### A host step beside the running command -/

/-- Two states whose running commands go on alike: they agree on all that a core step reads and writes, the outcome and the
flags apart (20_memory.md R49). -/
structure SameCommand (s t : State) : Prop where
  regs : t.regs = s.regs
  buf : t.buf = s.buf
  res : t.res = s.res
  txSegs : t.txSegs = s.txSegs
  txlog : t.txlog = s.txlog
  seq : t.seq = s.seq
  draws : t.draws = s.draws
  busy : t.status.busy = s.status.busy

theorem SameCommand.complete {s t : State} (h : SameCommand s t) (success : Bool) (err : ErrCode) :
    SameCommand (complete success err s) (complete success err t) :=
  { h with seq := rfl, busy := rfl }

theorem SameCommand.emit {s t : State} (h : SameCommand s t) (g : Segment) : SameCommand (emit g s) (emit g t) :=
  { h with txSegs := congrArg (· + 1) h.txSegs, txlog := congrArg (· ++ [g]) h.txlog }

/-- The running commands of two such states take the same core step, and complete with the same outcome. -/
theorem sameCommand_coreStep {s t : State} (h : SameCommand s t) :
    SameCommand (coreStep s) (coreStep t) ∧
      (s.seq ≠ .idle → (coreStep s).seq = .idle →
        (coreStep t).status.success = (coreStep s).status.success ∧
          (coreStep t).status.err = (coreStep s).status.err) := by
  unfold coreStep
  rw [h.seq]
  cases hq : s.seq with
  | idle => exact ⟨h, fun hne => absurd rfl hne⟩
  | runMatch =>
    simp only [coreMatch, h.regs]
    exact ⟨h.complete _ _, fun _ _ => ⟨rfl, rfl⟩⟩
  | runEncode =>
    simp only [coreEncode, h.regs, h.txSegs]
    split
    · exact ⟨h.complete _ _, fun _ _ => ⟨rfl, rfl⟩⟩
    · split
      · exact ⟨h.emit _, fun _ hidle => by cases hq.symm.trans hidle⟩
      · exact ⟨h.complete _ _, fun _ _ => ⟨rfl, rfl⟩⟩
  | runDecode strict gapreq =>
    simp only [coreDecode, h.regs, h.buf, h.draws]
    split
    all_goals
      refine ⟨.complete ?_ _ _, fun _ _ => ⟨rfl, rfl⟩⟩
      exact ⟨rfl, rfl, rfl, h.txSegs, h.txlog, h.seq, rfl, h.busy⟩

/-- While BUSY is 1 a host access that takes no draw leaves all that the running command reads and writes (20_memory.md R47,
R49). -/
theorem sameCommand_of_hostStep {s s' : State} {a : Access} (hbusy : s.status.busy = true)
    (h : s.inputs.head? = some (.host a)) (hs : step s = .next s') (hdraws : s'.draws = s.draws) : SameCommand s s' := by
  cases step_took hs with
  | core hcore => cases (coreTurn_iff h).mp hcore
  | reset hreset => cases h.symm.trans hreset
  | readEntry => exact ⟨rfl, rfl, rfl, rfl, rfl, rfl, hdraws, rfl⟩
  | accepted _ _ _ _ _ _ hidle | wroteEntry _ _ _ _ hidle => cases hbusy.symm.trans hidle
  | wroteReg x w _ _ hinten =>
    obtain hidle | rfl := hinten
    · cases hbusy.symm.trans hidle
    · exact ⟨rfl, rfl, rfl, rfl, rfl, rfl, rfl, rfl⟩
  | readReg | illegal | nop | refused | clear | ignored | droppedReg | droppedEntry =>
    exact ⟨rfl, rfl, rfl, rfl, rfl, rfl, rfl, rfl⟩

/-! ### SUCCESS and ERR -/

/-- Everything a step can do to SUCCESS and ERR: nothing, or what a completion, an acceptance or a reset does (10_state.md
R14, R15). -/
theorem step_outcome {s s' : State} (hs : step s = .next s') :
    (s'.status.success = s.status.success ∧ s'.status.err = s.status.err) ∨
      (completes s s' ∨ s.acceptsNext ∨ s.inputs.head? = some .reset) := by
  cases step_took hs with
  | core h => exact (coreStep_outcome s.popped).imp_right fun ⟨hq, hidle⟩ => .inl ⟨h, hq, hidle⟩
  | reset h => exact .inr (.inr (.inr h))
  | accepted w i q h hw hi hb =>
    obtain rfl := eq_encodeWord_of_decodeWord hw
    exact .inr (.inr (.inl (acceptsNext_of_command h hi hb)))
  | wroteReg x w => exact .inl (by simp)
  | readReg | readEntry | illegal | nop | refused | clear | ignored | droppedReg | droppedEntry | wroteEntry =>
    exact .inl ⟨rfl, rfl⟩

/-- An accepted word starts its command (40_command.md R71). -/
theorem step_of_acceptsNext {s : State} (h : s.acceptsNext) : ∃ q, step s = .next (accept q s.popped) := by
  obtain ⟨hb, w, hw, hlegal, hne⟩ := h
  obtain ⟨i, rfl⟩ := (legal_iff_eq_encodeWord w).mp hlegal
  obtain ⟨q, he⟩ := exec_idle (s := s.popped) hb (mt (encodeWord_eq_zero_iff i).mpr hne)
  exact ⟨q, by rw [step_of_writesNext_cmd hw, submit_encodeWord, he]⟩

/-- A completing core step of ENCODE reports success, or that the operands were not valid (41_encoder.md R80, R83). -/
theorem coreStep_encode_outcome {s : State} (hq : s.seq = .runEncode) (hidle : (coreStep s).seq = .idle) :
    (coreStep s).status.success = true ∧ (coreStep s).status.err = .none ∨
      (coreStep s).status.success = false ∧ (coreStep s).status.err = .configError := by
  rw [coreStep_runEncode hq] at hidle ⊢
  obtain ⟨-, -, he⟩ | ⟨-, ⟨hlt, he⟩ | ⟨-, he⟩⟩ := coreEncode_cases s
  · rw [he]
    exact .inr ⟨rfl, rfl⟩
  · rw [he, emit_seq, hq] at hidle
    cases hidle
  · rw [he]
    exact .inl ⟨rfl, rfl⟩

/-! ### The statements of the core's turns -/

/-- Settles O5, by the event at the head of the list and the running command. -/
theorem stepTakesTurns : Obligations.StepTakesTurns := by
  exact ⟨fun s => rfl, fun s h => step_of_quiet h, fun s hq => coreStep_idle hq, fun s hq => coreStep_runMatch hq,
    fun s hq => coreStep_runEncode hq, fun s _ _ hq => coreStep_runDecode hq⟩

/-- Settles O6: the core's turn keeps the empty event list. -/
theorem quietHostRunsCore : Obligations.QuietHostRunsCore := by
  intro k
  induction k with
  | zero => exact fun s _ => rfl
  | succ k ih =>
    intro s hquiet
    have hrest := ih (coreStep s) ((coreStep_inputs s).trans hquiet)
    exact (run_succ (step_of_quiet hquiet) k).trans hrest

/-- Settles O14: MATCH, DECODE and an invalid ENCODE have no emission before them, and a valid ENCODE has N. -/
theorem acceptedCommandCompletes : Obligations.AcceptedCommandCompletes := by
  intro s i hb hi
  obtain ⟨q, hq, hencode, he⟩ := exec_accepts hb hi
  have hrun := accept_running hq s
  by_cases hvalid : i = .encode ∧ encodeValid s.regs = true
  · obtain ⟨rfl, hv⟩ := hvalid
    obtain rfl := hencode.mpr rfl
    exact ⟨_, _, he, fun _ => by rw [if_pos hv]; rfl, fun hne => absurd rfl hne, encode_completes hrun rfl rfl hv⟩
  · have hnone : ¬ ((accept q s).seq = .runEncode ∧ (accept q s).emitsNext) := by
      rintro ⟨rfl, hemits, -⟩
      exact hvalid ⟨hencode.mp rfl, hemits.resolve_left fun h0 => h0 rfl⟩
    exact ⟨_, 1, he, fun hi => by rw [if_neg fun hv => hvalid ⟨hi, hv⟩], fun _ => rfl, completes_in_one hrun hnone⟩

/-- Settles O50, by what a step does to SUCCESS and ERR and by the outcome of each command. -/
theorem outcomeHeldUntilAcceptance : Obligations.OutcomeHeldUntilAcceptance := by
  refine ⟨fun s s' hs hne => ?held, fun s s' hs haccept => ?acceptance, fun s s' hs ⟨hcore, _, hidle⟩ => ?completion⟩
  case held => exact (step_outcome hs).resolve_left fun ⟨hsuccess, herr⟩ => hne.elim (· hsuccess) (· herr)
  case acceptance =>
    obtain ⟨q, he⟩ := step_of_acceptsNext haccept
    cases he.symm.trans hs
    exact ⟨rfl, rfl⟩
  case completion =>
    cases (step_of_coreTurn hcore).symm.trans hs
    refine ⟨fun hq => ?_, fun hq => coreStep_encode_outcome (s := s.popped) hq hidle⟩
    rw [coreStep_runMatch (s := s.popped) hq]
    rfl

/-- Settles O57: the host access leaves the running command, whose next core step is then the same. -/
theorem hostStepsDoNotDisturbCommand : Obligations.HostStepsDoNotDisturbCommand := by
  intro s s' a hbusy hhost hs hdraws
  have hsame := sameCommand_of_hostStep hbusy hhost hs hdraws
  obtain ⟨⟨hregs, hbuf, hres, hsegs, hlog, hseq, -, hb⟩, houtcome⟩ := sameCommand_coreStep hsame
  refine ⟨hregs, hbuf, hres, hsegs, hlog, hseq, hb, fun hidle hq => ?_⟩
  obtain ⟨hsuccess, herr⟩ := houtcome hq hidle
  have hdone := (coreStep_doneFlag s').mpr (.inl ⟨by rwa [hsame.seq], hseq.trans hidle⟩)
  exact ⟨hsuccess, herr, hdone⟩

end Sys2Proof.Machine
end

section
/-! PROOFS. The invariant of the machine at reset and over one step (10_state.md R28, R30, R32, R34; 70_reset_and_hazards.md
R145). -/

namespace Sys2Proof.Machine

/-! ### BUF as whole entries of the window -/

/-- A stored cell is a lane of the written entry, or was stored before. -/
theorem mem_setEntry {m : Memory} {i : Nat} {w : Word} {c : Host.Cell} (h : c ∈ m.setEntry i w) :
    (entryOff i ≤ c.1 ∧ c.1 < entryOff i + 4) ∨ c ∈ m := by
  have lane {m : Memory} {a : Nat} {b : Byte} (h : c ∈ m.writeByte a b) : c.1 = a ∨ c ∈ m :=
    (mem_writeByte h).imp_left (congrArg Prod.fst)
  obtain h3 | h2 | h1 | h0 | hbefore :=
    (lane h).imp_right fun h => (lane h).imp_right fun h => (lane h).imp_right lane
  case inr.inr.inr.inr => exact .inr hbefore
  all_goals exact .inl (by omega)

/-- An entry stays stored when an entry is written (20_memory.md R46). -/
theorem isSome_entry_setEntry {m : Memory} {j : Nat} (h : (m.entry j).isSome = true) (i : Nat) (w : Word) :
    ((m.setEntry i w).entry j).isSome = true := by
  obtain rfl | hne := eq_or_ne j i
  · rw [entry_setEntry_same, Option.isSome_some]
  · rwa [entry_setEntry_ne m w hne]

theorem setEntry_wholeEntries {m : Memory} (h : m.wholeEntries) {i : Nat} (hi : i < Config.bufDepth) (w : Word) :
    (m.setEntry i w).wholeEntries := by
  intro c hc
  obtain ⟨hlo, hhi⟩ | hc := mem_setEntry hc
  · exact ⟨i, hi, hlo, hhi, by rw [entry_setEntry_same, Option.isSome_some]⟩
  · obtain ⟨j, hj, hlo, hhi, hstored⟩ := h c hc
    exact ⟨j, hj, hlo, hhi, isSome_entry_setEntry hstored i w⟩

/-! ### BUF_LEN -/

/-- BUF_LEN is clamped to BUF_DEPTH (10_state.md R28). -/
theorem clampLen_le (w : Word) : (clampLen w).toNat ≤ Config.bufDepth := by
  rw [clampLen, BitVec.toNat_ofNat]
  exact (Nat.mod_le _ _).trans (Nat.min_le_right _ _)

/-- A write of any register leaves BUF_LEN at most BUF_DEPTH (10_state.md R28). -/
theorem bufLen_set_le {r : Operands} (h : r.bufLen.toNat ≤ Config.bufDepth) (x : Reg) (w : Word) :
    (r.set x w).bufLen.toNat ≤ Config.bufDepth := by
  cases x with
  | bufLen => exact clampLen_le w
  | _ => exact h

/-! ### The decoded value -/

/-- The loop keeps the value below 2 to the number of bits it has shifted in (42_decoder.md R96). -/
theorem decodeBits_value_lt {r : Operands} {m : Memory} {p left k draw d : Nat} {value v : BitVec 64}
    (h : decodeBits r m p left k value draw = (some v, d)) (hk : left + k ≤ 64) (hvalue : value.toNat < 2 ^ k) :
    v.toNat < 2 ^ (left + k) := by
  induction left generalizing k value draw with
  | zero =>
    cases h
    rwa [Nat.zero_add]
  | succ left ih =>
    rw [Nat.succ_add_eq_add_succ] at hk ⊢
    have shifted (b : Bool) : (value.shiftConcat b).toNat < 2 ^ (k + 1) :=
      BitVec.toNat_shiftConcat_lt_of_lt (by omega) hvalue
    simp only [decodeBits] at h
    split_ifs at h
    · rw [shiftLeft_one_or_one] at h
      exact ih h hk (shifted true)
    · rw [shiftLeft_one] at h
      exact ih h hk (shifted false)
    · cases h
    · cases h

/-- The checks that read BUF report the value of n bits, with n and the length of the frame (42_decoder.md R99). -/
theorem decodeEntries_eq_success {r : Operands} {m : Memory} {draw n consumed d : Nat} {v : BitVec 64}
    (hn : r.argNbits.toNat ≤ 64) (h : decodeEntries r m draw = (.success v n consumed, d)) :
    n = r.argNbits.toNat ∧ consumed = r.need ∧ v.toNat < 2 ^ r.argNbits.toNat := by
  unfold decodeEntries at h
  dsimp only at h
  split at h
  · split at h
    · split at h
      · cases h
      · rename_i value _ hbits
        have hvalue : value.toNat < 2 ^ r.argNbits.toNat := decodeBits_value_lt hbits hn Nat.zero_lt_one
        split_ifs at h <;> cases h <;> exact ⟨rfl, rfl, hvalue⟩
    · cases h
  · cases h

/-- A successful DECODE is one of at most 64 bits (42_decoder.md R92, R99). -/
theorem decodeFrame_eq_success {strict gapreq : Bool} {r : Operands} {m : Memory} {draw n consumed d : Nat} {v : BitVec 64}
    (h : decodeFrame strict gapreq r m draw = (.success v n consumed, d)) :
    n = r.argNbits.toNat ∧ n ≤ 64 ∧ consumed = r.need ∧ v.toNat < 2 ^ n := by
  unfold decodeFrame at h
  split_ifs at h with hstrict hlong hframe hgap
  case neg =>
    obtain ⟨rfl, hconsumed, hvalue⟩ := decodeEntries_eq_success (Nat.le_of_not_lt hlong) h
    exact ⟨rfl, Nat.le_of_not_lt hlong, hconsumed, hvalue⟩
  all_goals cases h

/-- What a successful DECODE writes to the result registers is no partial result (10_state.md R32). -/
theorem results_consistent_of_decodeFrame {strict gapreq : Bool} {r : Operands} {m : Memory} {draw n consumed d : Nat}
    {v : BitVec 64} (h : decodeFrame strict gapreq r m draw = (.success v n consumed, d)) (tag : BitVec 16) :
    Results.consistent { valueLo := v.extractLsb' 0 32, valueHi := v.extractLsb' 32 32
                         nbits := BitVec.ofNat 8 n, tag := tag, consumed := BitVec.ofNat 8 consumed } := by
  obtain ⟨hbits, hn, rfl, hvalue⟩ := decodeFrame_eq_success h
  have hneed : r.need = 2 * n + 3 := by
    rw [Operands.need, hbits]
    omega
  have hnbits : (BitVec.ofNat 8 n).toNat = n := Nat.mod_eq_of_lt (by omega)
  have hconsumed : (BitVec.ofNat 8 r.need).toNat = 2 * n + 3 := by
    rw [hneed]
    exact Nat.mod_eq_of_lt (by omega)
  refine .inr ⟨hnbits.trans_le hn, by rw [hnbits, hconsumed], ?_⟩
  rw [hnbits, Results.value, value_halves]
  exact hvalue

/-- TX_SEGS counts on without wrapping while segments are left (41_encoder.md R83). -/
theorem toNat_txSegs_succ {s : State} (hlt : s.txSegs.toNat < segmentCount s.regs) :
    (s.txSegs + 1).toNat = s.txSegs.toNat + 1 := by
  have := segmentCount_lt s.regs
  bv_omega

/-! ### The invariant under each operation -/

section
variable {s : State} (h : Inv s)
include h

theorem Inv.popped : Inv s.popped :=
  ⟨h.bufWf, h.bufWhole, h.busySeq, h.lenDepth, h.busyFlags, h.successErr, h.results, h.emitting⟩

theorem Inv.clearStatus (w : Word) : Inv (clearStatus w s) :=
  { h with
    busyFlags := fun hb => by
      obtain ⟨hdone, houtcome⟩ := h.busyFlags hb
      exact ⟨by simp [hdone], houtcome⟩ }

/-- An accepted command starts with its flags 0 and, if it is ENCODE, nothing emitted (40_command.md R71). -/
theorem Inv.accept {q : Sequencer} (hq : q ≠ .idle) : Inv (accept q s) :=
  { h with
    busySeq := iff_of_true rfl hq
    busyFlags := fun _ => ⟨rfl, rfl, rfl⟩
    successErr := nofun
    emitting := fun hencode => by
      have h0 : (Machine.accept q s).txSegs = 0 := if_pos hencode
      rw [State.emission, h0]
      exact ⟨Nat.zero_le _, fun hne => absurd rfl hne, s.txlog, (List.append_nil _).symm⟩ }

theorem Inv.complete {success : Bool} {err : ErrCode} (herr : success = true → err = .none) : Inv (complete success err s) :=
  { h with busySeq := ⟨nofun, fun hne => absurd rfl hne⟩, busyFlags := nofun, successErr := herr, emitting := nofun }

/-- An emission step appends the next segment of `EncodeSeq` (41_encoder.md R83). -/
theorem Inv.emit (hq : s.seq = .runEncode) (hemits : s.emitsNext) {g : Segment}
    (hg : (encodeSeq s.regs)[s.txSegs.toNat]? = some g) : Inv (emit g s) := by
  obtain ⟨hvalid, hlt⟩ := hemits
  obtain ⟨-, hwasValid, before, hlog⟩ := h.emitting hq
  have hcount := toNat_txSegs_succ hlt
  refine { h with emitting := fun _ => ?_ }
  refine ⟨hcount.trans_le hlt, fun _ => hvalid.elim hwasValid id, before, ?_⟩
  rw [emit_txlog, hlog, emit_txSegs, emit_regs, hcount, List.take_add_one, hg, List.append_assoc]
  rfl

theorem Inv.withResults {r : Results} (hr : r.consistent) (d : Nat) : Inv { s with res := r, draws := d } :=
  { h with results := hr }

/-- The host writes an operand register only while no command runs (20_memory.md R47). -/
theorem Inv.writeOperand (hb : s.status.busy = false) (x : Reg) (w : Word) : Inv { s with regs := s.regs.set x w } :=
  { h with
    lenDepth := bufLen_set_le h.lenDepth x w
    emitting := fun hq => by
      have hbusy := h.busySeq.mpr (by rw [show s.seq = _ from hq]; nofun)
      cases hb.symm.trans hbusy }

theorem Inv.setEntry {i : Nat} (hi : i < Config.bufDepth) (w : Word) : Inv { s with buf := s.buf.setEntry i w } :=
  { h with bufWf := setEntry_wf h.bufWf i w, bufWhole := setEntry_wholeEntries h.bufWhole hi w }

theorem Inv.coreStep : Inv (coreStep s) := by
  cases hq : s.seq with
  | idle => rwa [coreStep_idle hq]
  | runMatch =>
    rw [coreStep_runMatch hq]
    exact h.complete fun _ => rfl
  | runEncode =>
    rw [coreStep_runEncode hq]
    obtain ⟨-, -, he⟩ | ⟨hok, ⟨hlt, he⟩ | ⟨-, he⟩⟩ := coreEncode_cases s
    · rw [he]
      exact h.complete nofun
    · rw [he]
      exact h.emit hq ⟨hok, hlt⟩ (List.getElem?_eq_getElem _)
    · rw [he]
      exact h.complete fun _ => rfl
  | runDecode strict gapreq =>
    rw [coreStep_runDecode hq]
    obtain ⟨v, n, consumed, d, hframe, he⟩ | ⟨e, d, -, he⟩ := coreDecode_cases strict gapreq s
    · rw [he]
      exact (h.withResults (results_consistent_of_decodeFrame hframe _) d).complete fun _ => rfl
    · rw [he]
      exact (h.withResults (.inl rfl) d).complete nofun

end

theorem inv_resetBlock (s : State) : Inv (resetBlock s) where
  bufWf := ⟨.nil, fun _ hc => absurd hc List.not_mem_nil⟩
  bufWhole := fun _ hc => absurd hc List.not_mem_nil
  busySeq := ⟨nofun, fun hne => absurd rfl hne⟩
  lenDepth := Nat.zero_le _
  busyFlags := nofun
  successErr := nofun
  results := .inl rfl
  emitting := nofun

/-! ### The statements of the invariant -/

/-- Settles O58: the reset state is the reset of itself. -/
theorem resetMeetsInvariant : Obligations.ResetMeetsInvariant := inv_resetBlock State.reset

/-- Settles O59, by the cases of a step: an event that is no write, acceptance, core step or reset changes nothing that the
invariant speaks of but DONE. -/
theorem everyStepKeepsInvariant : Obligations.EveryStepKeepsInvariant := by
  intro s s' h hs
  cases step_took hs with
  | core => exact h.popped.coreStep
  | reset => exact inv_resetBlock s.popped
  | accepted _ _ q _ _ _ _ hq => exact h.popped.accept hq
  | clear w => exact h.popped.clearStatus w
  | wroteReg x w _ _ hb =>
    by_cases hx : x = .inten
    · subst hx
      exact ⟨h.bufWf, h.bufWhole, h.busySeq, h.lenDepth, h.busyFlags, h.successErr, h.results, h.emitting⟩
    · rw [writeReg_operand hx]
      exact h.popped.writeOperand (hb.resolve_right hx) x w
  | wroteEntry i w hi => exact h.popped.setEntry hi w
  | readReg | readEntry | illegal | nop | refused | ignored | droppedReg | droppedEntry =>
    exact ⟨h.bufWf, h.bufWhole, h.busySeq, h.lenDepth, h.busyFlags, h.successErr, h.results, h.emitting⟩

end Sys2Proof.Machine
end

section
/-! PROOFS. The duration of an ENCODE and the line `ir_tx` (41_encoder.md R84; 70_reset_and_hazards.md R148). -/

namespace Sys2Proof.Machine

/-! ### Durations -/

@[simp] theorem totalDuration_nil : totalDuration [] = 0 := rfl

@[simp] theorem totalDuration_cons (g : Segment) (l : List Segment) :
    totalDuration (g :: l) = g.dur.toNat + totalDuration l := by simp [totalDuration]

@[simp] theorem totalDuration_append (l l' : List Segment) :
    totalDuration (l ++ l') = totalDuration l + totalDuration l' := by simp [totalDuration]

/-- Copies of a sequence last that many times as long. -/
theorem totalDuration_flatten_replicate (n : Nat) (l : List Segment) :
    totalDuration (List.replicate n l).flatten = n * totalDuration l := by
  induction n with
  | zero => simp
  | succ n ih =>
    rw [List.replicate_succ, List.flatten_cons, totalDuration_append, ih]
    ring

theorem popcountLow_succ (v : BitVec 64) (n : Nat) :
    popcountLow v (n + 1) = popcountLow v n + (if v.getLsbD n then 1 else 0) := by
  simp [popcountLow, List.range_succ, List.countP_singleton]

theorem popcountLow_le (v : BitVec 64) (n : Nat) : popcountLow v n ≤ n := by
  simpa [popcountLow] using List.countP_le_length (p := fun i => v.getLsbD i) (l := List.range n)

/-- Each data bit lasts one BIT_MARK and the space of its value (70_reset_and_hazards.md R148). -/
theorem totalDuration_dataSegments (r : Operands) (v : BitVec 64) (n : Nat) :
    totalDuration (dataSegments r v n) =
      n * r.bitMark.toNat + popcountLow v n * r.oneSpace.toNat + (n - popcountLow v n) * r.zeroSpace.toNat := by
  induction n with
  | zero => simp [dataSegments, popcountLow]
  | succ n ih =>
    rw [dataSegments, totalDuration_cons, totalDuration_cons, ih, popcountLow_succ]
    cases v.getLsbD n with
    | true =>
      rw [if_pos rfl, if_pos rfl, Nat.add_sub_add_right]
      ring
    | false =>
      simp only [Bool.false_eq_true, if_false, Nat.add_zero, Nat.sub_add_comm (popcountLow_le v n)]
      ring

/-! ### The line -/

theorem irTx_of_not_encoding {s : State} (hq : s.seq ≠ .runEncode) : s.irTx = none := if_neg fun h => hq h.1

theorem carrierOn_of_irTx_none {s : State} (h : s.irTx = none) : s.carrierOn = false := by
  rw [State.carrierOn, h]

/-- The carrier is on exactly for a mark of nonzero duration (41_encoder.md R84, R87). -/
theorem carrierOn_iff_of_irTx_some {s : State} {g : Segment} (h : s.irTx = some g) :
    s.carrierOn = true ↔ g.level = .mark ∧ g.dur ≠ 0 := by
  rw [State.carrierOn, h, Bool.and_eq_true, decide_eq_true_iff, decide_eq_true_iff]

/-- After an emission of a running ENCODE the line carries the segment emitted, the count not having wrapped to 0
(41_encoder.md R84). -/
theorem irTx_emit {s : State} (hq : s.seq = .runEncode) (hlt : s.txSegs.toNat < segmentCount s.regs) (g : Segment) :
    (emit g s).irTx = some g := by
  have hcount : s.txSegs + 1 ≠ 0 := by
    intro h0
    have hsucc := toNat_txSegs_succ hlt
    rw [h0] at hsucc
    cases hsucc
  rw [State.irTx, if_pos ⟨hq, hcount⟩, emit_txlog, List.getLast?_concat]

/-! ### The statements of the emission -/

/-- Settles O24: the sequence is REPEAT+1 frames, and the data segments of a frame are counted bit by bit. -/
theorem encodeTimeIsSumOfDurations : Obligations.EncodeTimeIsSumOfDurations := by
  intro r
  rw [encodeSeq, totalDuration_flatten_replicate, encodeTime]
  congr 1
  simp only [frame, totalDuration_append, totalDuration_cons, totalDuration_nil, totalDuration_dataSegments]
  ring

/-- Settles O25: an emission step puts its segment at the end of TXLOG, where the line reads it. -/
theorem lineFollowsEmission : Obligations.LineFollowsEmission := by
  refine ⟨fun s hq => ?off, fun s hq hvalid hlt => ?emission⟩
  case off => exact ⟨irTx_of_not_encoding hq, carrierOn_of_irTx_none (irTx_of_not_encoding hq)⟩
  case emission =>
    obtain ⟨hidle, -⟩ | ⟨-, -, g, hg, he⟩ | ⟨-, hn, -⟩ := coreStep_cases s
    · cases hq.symm.trans hidle
    · have hline := irTx_emit hq hlt g
      rw [he, hg]
      refine ⟨hline, fun g' hg' => ?_⟩
      cases hg'
      exact ⟨rfl, rfl, carrierOn_iff_of_irTx_some hline⟩
    · exact absurd ⟨hq, hvalid, hlt⟩ hn

end Sys2Proof.Machine
end

section
/-! PROOFS. What the core steps read: of BUF the frame and gap entries, of the operands the command's list (20_memory.md R52;
30_encoding.md R68). -/

namespace Sys2Proof.Machine

/-! ### The entries of BUF that DECODE reads -/

/-- A read of an entry depends on that entry alone (20_memory.md R53). -/
theorem readEntry_congr {m m' : Memory} {i : Nat} (h : m.entry i = m'.entry i) (draw : Nat) :
    m.readEntry i draw = m'.readEntry i draw := by
  rw [Memory.readEntry, Memory.readEntry, h]

/-- The loop reads the mark and space entries of the bits left (42_decoder.md R95, R96). -/
theorem decodeBits_congr_buf {m m' : Memory} (r : Operands) {p left k : Nat}
    (h : ∀ j, p + 2 + 2 * k ≤ j → j < p + 2 + 2 * (k + left) → m.entry j = m'.entry j) (value : BitVec 64) (draw : Nat) :
    decodeBits r m p left k value draw = decodeBits r m' p left k value draw := by
  induction left generalizing k value draw with
  | zero => rfl
  | succ left ih =>
    have hmark := readEntry_congr (h (p + 2 + 2 * k) (by omega) (by omega))
    have hspace := readEntry_congr (h (p + 3 + 2 * k) (by omega) (by omega))
    have hrest := ih (k := k + 1) fun j hlo hhi => h j (by omega) (by omega)
    simp only [decodeBits, hmark, hspace, hrest]

/-- The checks read the entries of the frame, and the gap entry where it is present (42_decoder.md R94 to R98). -/
theorem decodeEntries_congr_buf {m m' : Memory} {r : Operands}
    (hfits : r.offset.toNat + (2 + 2 * r.argNbits.toNat + 1) ≤ r.bufLen.toNat)
    (h : ∀ j, r.offset.toNat ≤ j → j ≤ r.offset.toNat + 2 + 2 * r.argNbits.toNat + 1 → j < r.bufLen.toNat →
      m.entry j = m'.entry j) (draw : Nat) :
    decodeEntries r m draw = decodeEntries r m' draw := by
  have hhdrMark := readEntry_congr (h r.offset.toNat (by omega) (by omega) (by omega))
  have hhdrSpace := readEntry_congr (h (r.offset.toNat + 1) (by omega) (by omega) (by omega))
  have hbits := decodeBits_congr_buf r (p := r.offset.toNat) (left := r.argNbits.toNat) (k := 0)
    fun j hlo hhi => h j (by omega) (by omega) (by omega)
  have hftrMark := readEntry_congr (h (r.offset.toNat + 2 + 2 * r.argNbits.toNat) (by omega) (by omega) (by omega))
  simp only [decodeEntries, hhdrMark, hhdrSpace, hbits, hftrMark]
  by_cases hpresent : r.gapPresent = true
  · have hbelow := (gapPresent_iff r).mp hpresent
    have hgap := readEntry_congr (h (r.offset.toNat + 3 + 2 * r.argNbits.toNat) (by omega) (by omega) (by omega))
    simp only [hgap]
  · simp only [hpresent, Bool.false_eq_true, if_false]

/-- The checks before the header let BUF be read only where the frame lies below BUF_LEN (42_decoder.md R93). -/
theorem decodeFrame_congr_buf {m m' : Memory} {r : Operands}
    (h : ∀ j, r.offset.toNat ≤ j → j ≤ r.offset.toNat + 2 + 2 * r.argNbits.toNat + 1 → j < r.bufLen.toNat →
      m.entry j = m'.entry j) (strict gapreq : Bool) (draw : Nat) :
    decodeFrame strict gapreq r m draw = decodeFrame strict gapreq r m' draw := by
  by_cases hshort : r.avail < r.need
  · simp only [decodeFrame, hshort, if_true]
  · have hfits := Nat.le_of_not_lt (mt (avail_lt_need_iff r).mpr hshort)
    simp only [decodeFrame, decodeEntries_congr_buf hfits h]

/-! ### The operands that the core steps read -/

section
variable {r r' : Operands} (hbitMark : r'.bitMark = r.bitMark) (honeSpace : r'.oneSpace = r.oneSpace)
  (hzeroSpace : r'.zeroSpace = r.zeroSpace)
include hbitMark honeSpace hzeroSpace

theorem dataSegments_congr_regs (v : BitVec 64) (n : Nat) : dataSegments r' v n = dataSegments r v n := by
  induction n with
  | zero => rfl
  | succ n ih => rw [dataSegments, dataSegments, hbitMark, honeSpace, hzeroSpace, ih]

variable (htolPct : r'.tolPct = r.tolPct) (htolAbs : r'.tolAbs = r.tolAbs)
include htolPct htolAbs

theorem decodeBits_congr_regs (m : Memory) (p left k : Nat) (value : BitVec 64) (draw : Nat) :
    decodeBits r' m p left k value draw = decodeBits r m p left k value draw := by
  induction left generalizing k value draw with
  | zero => rfl
  | succ left ih =>
    simp only [decodeBits, Operands.matches, hbitMark, honeSpace, hzeroSpace, htolPct, htolAbs, ih]
    rfl

end

/-! ### The statements of what is read -/

/-- Settles O34: the checks read no entry outside the frame and its gap. -/
theorem decodeReadsOnlyFrame : Obligations.DecodeReadsOnlyFrame := by
  intro s strict gapreq m hq h
  rw [coreStep_runDecode hq, coreStep_runDecode (s := { s with buf := m }) hq]
  simp only [coreDecode, decodeFrame_congr_buf h strict gapreq s.draws]
  split <;> rfl

/-- Settles O36, command by command: each function of the core step reads listed registers alone. -/
theorem coreStepReadsListedRegisters : Obligations.CoreStepReadsListedRegisters := by
  refine fun s r => ⟨?matchTol, ?encode, ?decode⟩
  case matchTol =>
    intro hq hmeas hnom htolPct htolAbs
    rw [coreStep_runMatch hq, coreStep_runMatch (s := { s with regs := r }) hq]
    simp only [Operands.matches, hmeas, hnom, htolPct, htolAbs]
    rfl
  case encode =>
    intro hq hhdrMark hhdrSpace hbitMark honeSpace hzeroSpace hftrMark hminGap hcarrier hrepeat hnbits hpayload
    have hvalid : encodeValid r = encodeValid s.regs := by
      rw [encodeValid, encodeValid, Operands.khz, Operands.khz, Operands.dutyPct, Operands.dutyPct, hcarrier, hnbits]
    have hseq : encodeSeq r = encodeSeq s.regs := by
      simp only [encodeSeq, frame, dataSegments_congr_regs hbitMark honeSpace hzeroSpace, hhdrMark, hhdrSpace, hftrMark,
        hminGap, hrepeat, hnbits, hpayload]
    rw [coreStep_runEncode hq, coreStep_runEncode (s := { s with regs := r }) hq]
    simp only [coreEncode, hvalid, hseq]
    split
    · rfl
    · split <;> rfl
  case decode =>
    intro strict gapreq hq hhdrMark hhdrSpace hbitMark honeSpace hzeroSpace hftrMark hminGap hdesc htag hnbits hoffset
      hbufLen htolPct htolAbs
    have hframe : decodeFrame strict gapreq r s.buf s.draws = decodeFrame strict gapreq s.regs s.buf s.draws := by
      simp only [decodeFrame, decodeEntries, decodeBits_congr_regs hbitMark honeSpace hzeroSpace htolPct htolAbs,
        Operands.matches, Operands.atLeast, Operands.gapPresent, Operands.avail, Operands.need, hhdrMark, hhdrSpace,
        hftrMark, hminGap, hdesc, hnbits, hoffset, hbufLen, htolPct, htolAbs]
      rfl
    rw [coreStep_runDecode hq, coreStep_runDecode (s := { s with regs := r }) hq]
    simp only [coreDecode, hframe, htag]
    split <;> rfl

end Sys2Proof.Machine
end

section
/-! PROOFS. The register map, host reads, and the answers of the port (10_state.md section 1; 20_memory.md R41 to R46;
60_exceptions.md R125). -/

namespace Sys2Proof.Machine

/-! ### The words of the map -/

/-- A 64-bit value of two registers as a number (10_state.md R29, R32). -/
theorem toNat_append_words (hi lo : Word) : (hi ++ lo).toNat = hi.toNat * 2 ^ 32 + lo.toNat := by
  rw [BitVec.toNat_append, ← Nat.shiftLeft_add_eq_or_of_lt lo.isLt, Nat.shiftLeft_eq]

/-- Byte lane `k` of a word as a number (20_memory.md R42). -/
theorem laneOf_eq_ofNat (w : Word) (k : Nat) : laneOf w k = BitVec.ofNat 8 (w.toNat / 2 ^ (8 * k)) := by
  rw [← Nat.shiftRight_eq_div_pow]
  rfl

/-- The single bits of STATUS (10_state.md section 2). -/
theorem getLsbD_statusWord (t : Status) :
    t.word.getLsbD 0 = t.busy ∧ t.word.getLsbD 1 = t.doneFlag ∧ t.word.getLsbD 2 = t.success ∧ t.word.getLsbD 3 = false ∧
      t.word.getLsbD 8 = t.cmdErr ∧ t.word.getLsbD 9 = t.wErr := by
  simp only [Status.word, BitVec.getLsbD_append]
  simp

/-- Bits 7:4 of STATUS are the error code (10_state.md section 2). -/
theorem extractLsb'_statusWord (t : Status) : t.word.extractLsb' 4 4 = t.err.code := by
  simp (disch := decide) only [Status.word, Nat.reduceSub, BitVec.extractLsb'_append_eq_of_le,
    BitVec.extractLsb'_append_eq_of_add_le, BitVec.extractLsb'_eq_self]

/-- Bits 31:10 of STATUS read 0 (10_state.md section 2). -/
theorem getLsbD_statusWord_reserved (t : Status) {i : Nat} (h : 10 ≤ i) : t.word.getLsbD i = false := by
  simp only [Status.word, BitVec.getLsbD_append]
  iterate 7 rw [if_neg (by omega)]
  exact BitVec.getLsbD_zero

theorem statusWord_lt (t : Status) : t.word.toNat < 2 ^ 10 :=
  Nat.lt_pow_two_of_testBit _ fun _ h => getLsbD_statusWord_reserved t h

/-- Every register reads its used bits alone (10_state.md R36). -/
theorem readReg_lt (s : State) (x : Reg) : (readReg s x).toNat < 2 ^ x.usedBits := by
  cases x with
  | status => exact statusWord_lt s.status
  | inten | tolPct | carrier | descNbits | repeatCount | protoTag | argNbits | offset | bufLen | resNbits | resTag
  | resConsumed => exact (BitVec.toNat_setWidth_of_le (by decide)).trans_lt (BitVec.isLt _)
  | cmd | tolAbs | hdrMark | hdrSpace | bitMark | oneSpace | zeroSpace | ftrMark | minGap | payloadLo | payloadHi | meas
  | nom | resValueLo | resValueHi | txSegs => exact BitVec.isLt _

/-- The map as the host reads it lists every register once, in order of offset (10_state.md section 1). -/
theorem readMap_eq (s : State) : s.readMap = allRegs.map fun x => (x.off, readReg s x) := by
  have hinten : (if s.doneIe then 1 else 0 : Word) = readReg s .inten := by
    rw [readReg]
    cases s.doneIe <;> rfl
  rw [State.readMap, hinten]
  rfl

/-! ### The offsets of the window -/

/-- The word offsets below BUF that the map does not name (20_memory.md R44). -/
def unnamedOffset (off : Nat) : Prop :=
  (0x014 ≤ off ∧ off ≤ 0x01C) ∨ off = 0x04C ∨ (0x06C ≤ off ∧ off ≤ 0x07C) ∨ (0x098 ≤ off ∧ off ≤ 0xFFC)

theorem not_unnamedOffset_off (x : Reg) : ¬ unnamedOffset x.off := by
  unfold unnamedOffset
  cases x <;> decide

/-- A word offset below BUF outside those ranges is a register's (10_state.md section 1). -/
theorem exists_reg_of_not_unnamedOffset {off : Nat} (ha : off % 4 = 0) (hlow : off < bufBase)
    (hn : ¬ unnamedOffset off) : ∃ x : Reg, x.off = off := by
  have hmap : ∀ k < 38, ¬ unnamedOffset (4 * k) → ∃ x ∈ allRegs, x.off = 4 * k := by
    unfold unnamedOffset
    decide
  have hoff : off = 4 * (off / 4) := by omega
  have hfew : off / 4 < 38 := by
    unfold unnamedOffset at hn
    unfold bufBase at hlow
    omega
  obtain ⟨x, -, hx⟩ := hmap (off / 4) hfew (hoff ▸ hn)
  exact ⟨x, hx.trans hoff.symm⟩

theorem admission_unnamedOffset {off : Nat} (hn : unnamedOffset off) : admission 4 off = .badAccess := by
  have hlow : off < bufBase := by
    unfold unnamedOffset at hn
    unfold bufBase
    omega
  have hnone : Reg.ofOff off = none :=
    Option.eq_none_iff_forall_ne_some.mpr fun x hx => not_unnamedOffset_off x (off_of_ofOff hx ▸ hn)
  simp [admission, inWindow_low hlow, locate, hlow, hnone]

/-- Every other word offset of the window is admitted (20_memory.md R41, R44). -/
theorem exists_admission_of_not_unnamedOffset {off : Nat} (ha : off % 4 = 0) (hw : off < bufBase + 4 * Config.bufDepth)
    (hn : ¬ unnamedOffset off) : ∃ t, admission 4 off = .admitted t := by
  obtain hlow | hhigh := Nat.lt_or_ge off bufBase
  · obtain ⟨x, rfl⟩ := exists_reg_of_not_unnamedOffset ha hlow hn
    exact ⟨_, admission_reg x⟩
  · have hentry : off = entryOff ((off - bufBase) / 4) := by
      unfold entryOff bufBase at *
      omega
    rw [hentry]
    exact ⟨_, admission_entry (by omega)⟩

/-- In the window another width than 4, or an offset that is no multiple of 4, is a bad access (20_memory.md R43). -/
theorem admission_badWidthOrAlignment {width off : Nat} (hw : off < bufBase + 4 * Config.bufDepth)
    (hbad : width ≠ 4 ∨ off % 4 ≠ 0) : admission width off = .badAccess := by
  have hin : inWindow off = true := by simp [inWindow, hw]
  rw [admission, if_pos hin, if_neg (not_and_or.mpr hbad)]

theorem admission_outside {width off : Nat} (h : bufBase + 4 * Config.bufDepth ≤ off) : admission width off = .outside := by
  have hout : inWindow off = false := by
    simp only [inWindow, Bool.or_eq_false_iff, decide_eq_false_iff_not]
    omega
  simp [admission, hout]

/-! ### The answers of the port -/

theorem hostStep_read {width off : Nat} {t : Target} (h : admission width off = .admitted t) (s : State) :
    hostStep (.read width off) s = hostRead t s := by simp [hostStep, h]

theorem hostStep_write {width off : Nat} {t : Target} (h : admission width off = .admitted t) (w : Word) (s : State) :
    hostStep (.write width off w) s = hostWrite t w s := by simp [hostStep, h]

theorem step_hostRead {off : Nat} {t : Target} (h : admission 4 off = .admitted t) (s : State) :
    step (s.push (.host (.read 4 off))) = hostRead t s := hostStep_read h s

theorem step_read_reg (x : Reg) (s : State) :
    step (s.push (.host (.read 4 x.off))) = .next { s with reads := s.reads ++ [readReg s x] } :=
  step_hostRead (admission_reg x) s

theorem step_badAccess {width off : Nat} (h : admission width off = .badAccess) (s : State) (w : Word) :
    step (s.push (.host (.read width off))) = busError off ∧
      step (s.push (.host (.write width off w))) = busError off := by
  simp [step, State.push, hostStep, h]

theorem step_outside {width off : Nat} (h : admission width off = .outside) (s : State) (w : Word) :
    step (s.push (.host (.read width off))) = notAddressed off ∧
      step (s.push (.host (.write width off w))) = notAddressed off := by
  simp [step, State.push, hostStep, h]

/-- A submission answers, whatever its word (40_command.md R70). -/
theorem submit_answers (w : Word) (s : State) : ∃ s', submit w s = .next s' := by
  unfold submit
  split
  · rename_i i _
    obtain ⟨-, he⟩ | ⟨q, -, -, -, he⟩ := exec_cases i s
    · exact ⟨_, he⟩
    · exact ⟨_, he⟩
  · exact ⟨_, rfl⟩

theorem hostRead_answers (t : Target) (s : State) : ∃ s', hostRead t s = .next s' := by
  cases t with
  | reg x => exact ⟨_, rfl⟩
  | buf i => exact ⟨_, rfl⟩

theorem hostWrite_answers (t : Target) (w : Word) (s : State) : ∃ s', hostWrite t w s = .next s' := by
  cases t with
  | reg x =>
    cases hx : x.access with
    | wo =>
      simp only [hostWrite, hx]
      exact submit_answers w s
    | w1c | ro => simp [hostWrite, hx]
    | rw =>
      simp only [hostWrite, hx]
      split <;> exact ⟨_, rfl⟩
  | buf i =>
    simp only [hostWrite]
    split <;> exact ⟨_, rfl⟩

theorem isAdmitted_iff (a : Access) : a.isAdmitted = true ↔ ∃ t, admission a.width a.off = .admitted t := by
  unfold Access.isAdmitted
  cases admission a.width a.off <;> simp

/-- An admitted access answers (20_memory.md R45, R46). -/
theorem hostStep_answers {a : Access} (h : a.isAdmitted = true) (s : State) : ∃ s', hostStep a s = .next s' := by
  obtain ⟨t, ht⟩ := (isAdmitted_iff a).mp h
  cases a with
  | read width off =>
    obtain ⟨s', hs⟩ := hostRead_answers t s
    exact ⟨s', (hostStep_read ht s).trans hs⟩
  | write width off w =>
    obtain ⟨s', hs⟩ := hostWrite_answers t w s
    exact ⟨s', (hostStep_write ht w s).trans hs⟩

/-- A step answers when its event is admitted (60_exceptions.md R125). -/
theorem step_answers {s : State} (h : s.hostSafe = true) : ∃ s', step s = .next s' := by
  have hevents := List.all_eq_true.mp h
  unfold step
  split
  · rename_i a rest hin
    exact hostStep_answers (hevents (.host a) (by simp [hin])) _
  · exact ⟨_, rfl⟩
  · exact ⟨_, rfl⟩
  · exact ⟨_, rfl⟩

/-! ### The statements of the register map and the port -/

/-- Settles O60, the fields as parts of their register's number. -/
theorem registerMapLayout : Obligations.RegisterMapLayout := by
  refine ⟨rfl, fun x => ?complete, fun r => ⟨?khz, ?dutyPct, toNat_append_words _ _⟩, fun r => toNat_append_words _ _⟩
  case complete => cases x <;> decide
  case khz => rw [Operands.khz, BitVec.extractLsb'_toNat, Nat.shiftRight_zero]
  case dutyPct =>
    have := r.carrier.isLt
    rw [Operands.dutyPct, BitVec.extractLsb'_toNat, Nat.shiftRight_eq_div_pow]
    omega

/-- Settles O37: a read returns its register or entry, and takes a draw where the entry is not written. -/
theorem hostReadsReturnData : Obligations.HostReadsReturnData := by
  refine ⟨fun s x => step_read_reg x s, fun s p hp => ?map, readReg_lt, fun _ => rfl, fun s i w hi hw => ?written,
    fun s i hi hw => ?unwritten⟩
  case map =>
    rw [readMap_eq] at hp
    obtain ⟨x, -, rfl⟩ := List.mem_map.mp hp
    exact step_read_reg x s
  case written =>
    refine (step_hostRead (admission_entry hi) s).trans ?_
    rw [hostRead, readEntry_of_some hw]
    rfl
  case unwritten =>
    refine (step_hostRead (admission_entry hi) s).trans ?_
    rw [hostRead, readEntry_of_none hw]
    rfl

/-- Settles O38, bit by bit. -/
theorem statusWordLayout : Obligations.StatusWordLayout := by
  refine ⟨fun s => ?_, rfl⟩
  obtain ⟨hbusy, hdone, hsuccess, hzero, hcmdErr, hwErr⟩ := getLsbD_statusWord s.status
  exact ⟨hbusy, hdone, hsuccess, hzero, extractLsb'_statusWord s.status, hcmdErr, hwErr,
    fun _ => getLsbD_statusWord_reserved s.status⟩

/-- Settles O41: the entry's four lanes are stored, and no other byte. -/
theorem bufWriteStoresLanes : Obligations.BufWriteStoresLanes := by
  intro s i w hb hi
  refine ⟨_, step_write_entry_idle hi hb w, fun k hk => ?lane, fun a ha => ?other⟩
  case lane =>
    rw [← laneOf_eq_ofNat]
    refine (readByte_setEntry s.buf i w (entryOff i + k)).trans ?_
    obtain rfl | rfl | rfl | rfl : k = 0 ∨ k = 1 ∨ k = 2 ∨ k = 3 := by omega
    all_goals simp
  case other =>
    change a < entryOff i ∨ entryOff i + 4 ≤ a at ha
    refine (readByte_setEntry s.buf i w a).trans ?_
    iterate 4 rw [if_neg (by omega)]

/-- Settles O42: the two writes go to different registers, and the block stays idle between them. -/
theorem payloadIsTwoWrites : Obligations.PayloadIsTwoWrites := by
  intro s lo hi hb
  have low {s : State} (hb : s.status.busy = false) := step_write_rw_idle (x := .payloadLo) rfl hb lo
  have high {s : State} (hb : s.status.busy = false) := step_write_rw_idle (x := .payloadHi) rfl hb hi
  exact ⟨_, _, _, low hb, high hb, high hb, low hb, toNat_append_words hi lo, toNat_append_words s.regs.payloadHi lo⟩

/-- Settles O43: the base is a multiple of 4, so an address is aligned when its offset is. -/
theorem badWidthOrAlignmentIsBusError : Obligations.BadWidthOrAlignmentIsBusError := by
  intro s width off w hw hbad
  have hbase : Config.irptBase = 4 * Config.irptBaseWords := rfl
  exact step_badAccess (admission_badWidthOrAlignment hw (hbad.imp_right fun h => by omega)) s w

/-- Settles O44: an unnamed offset is a bad access, and every other word offset reaches its target. -/
theorem unnamedOffsetsAreBusErrors : Obligations.UnnamedOffsetsAreBusErrors := by
  refine fun s off w ha hw => ⟨fun hn => step_badAccess (admission_unnamedOffset hn) s w, fun hn => ?named⟩
  case named =>
    obtain ⟨t, ht⟩ := exists_admission_of_not_unnamedOffset ha hw hn
    obtain ⟨r, hr⟩ := hostRead_answers t s
    obtain ⟨r', hr'⟩ := hostWrite_answers t w s
    exact ⟨r, r', (step_hostRead ht s).trans hr, (step_hostWrite ht w s).trans hr'⟩

/-- Settles O45: the window is tested before width and alignment. -/
theorem outsideWindowNotAddressed : Obligations.OutsideWindowNotAddressed :=
  fun s _ _ w h => step_outside (admission_outside h) s w

/-- Settles O46: an admitted event is answered, and the events after it are a tail of those before. -/
theorem safeHostNeverStops : Obligations.SafeHostNeverStops := by
  intro s h
  obtain ⟨s', hs⟩ := step_answers h
  refine ⟨s', hs, List.all_eq_true.mpr fun e he => List.all_eq_true.mp h e ?_⟩
  rw [step_inputs hs] at he
  exact List.mem_of_mem_tail he

end Sys2Proof.Machine
end
